-- ==== Sys2Proof/Word.lean ====
section
/-! DEFINITION. The word types: a byte, a 32-bit register or bus word, an 8-byte key-wrap register, a 16-byte block. -/

namespace Sys2Proof

/-- A byte (00_scope.md R10). A byte string is a `List Byte`, index 0 first. -/
abbrev Byte := BitVec 8

/-- A register of the map of 10_state.md R30, or a bus data value. -/
abbrev Word := BitVec 32

/-- An 8-byte key-wrap register (41_keywrap.md R140), byte 0 in the most significant bits. -/
abbrev Semi := BitVec 64

/-- A 16-byte string (KEY, IV, TAG, a cipher block), held as the number `int_be` gives it
(00_scope.md R11): byte 0 in the most significant bits. See assumption 6. -/
abbrev Block := BitVec 128

end Sys2Proof
end

