-- ==== Sys2Proof/Config.lean ====
section
/-! DEFINITION. What an implementation fixes (00_scope.md R9, 10_state.md R22) and the free value of the model. -/

namespace Sys2Proof.Config

/-- `KW_T_WIDTH`: how much of the key-wrap step counter is xored into A (41_keywrap.md R143). -/
inductive KwTWidth where
  | w8
  | w64
  deriving DecidableEq, Repr

/-- `EAX_TWEAK_OFFSET`: where the discriminator stands in the prefix block, byte 0 or byte 15 (44_eax.md R170). -/
inductive EaxTweakOffset where
  | byte0
  | byte15
  deriving DecidableEq, Repr

/-- The open parameters of one instance of the hardware (00_scope.md R9). `CORE_BASE` is left out: every
offset is relative to it (assumption 2). -/
structure Params where
  bufBytes       : Nat
  bufOff         : Nat
  kwTWidth       : KwTWidth
  eaxTweakOffset : EaxTweakOffset
  idValue        : Word
  deriving DecidableEq, Repr

/-- The default of every parameter (00_scope.md R9). -/
def defaults : Params where
  bufBytes       := 0x20000
  bufOff         := 0x20000
  kwTWidth       := .w64
  eaxTweakOffset := .byte0
  idValue        := 0x41455301#32

/-- `n` rounded up to a power of two, for `n` at least 1. -/
def pow2Above (n : Nat) : Nat := if 2 ^ n.log2 = n then n else 2 ^ (n.log2 + 1)

/-- The legal values of `BUF_BYTES` and `BUF_OFF` (00_scope.md R9); the other parameters are legal by type. -/
abbrev Params.Legal (p : Params) : Prop :=
  p.bufBytes % 16 = 0 ∧ 64 ≤ p.bufBytes ∧ p.bufBytes ≤ 2 ^ 31 ∧
    0x1000 ≤ p.bufOff ∧ p.bufOff % pow2Above p.bufBytes = 0

/-- FREE VALUE: what an unspecified byte of BUF holds, by draw and by address (10_state.md R50, 47_system.md R192).
Nothing constrains it (assumption 5). -/
opaque freeByte : Nat → Nat → Byte

end Sys2Proof.Config
end

