-- ==== Sys2Proof/Machine/State.lean ====
section
/-! DEFINITION. The state of the CORE (10_state.md R21), its plain data types, the reasons a step can stop, and the state
after a hardware reset (10_state.md R50). -/

namespace Sys2Proof.Machine

/-- The completion codes (60_exceptions.md R200). Codes 6 to 15 are never produced, so the type has six values
(93_implementation_defined.md U6). -/
inductive ECode where
  | ok
  | integrityMismatch
  | tagMismatch
  | malformedLength
  | illegalCommand
  | keyNotLoaded
  deriving DecidableEq, Repr

/-- An address register and a length register: `BUF[addr .. addr + len)` (10_state.md R35, R36). -/
structure Region where
  addr : Word
  len  : Word
  deriving DecidableEq, Repr

/-- What a byte of BUF that no cell lists is (10_state.md R50, 47_system.md R191, R192). -/
inductive Fill where
  /-- Unspecified: a free value, one per byte and per draw. -/
  | drawn
  /-- 0x00: nothing has been written there since a ZEROIZE. -/
  | zeroed
  deriving DecidableEq, Repr

/-- BUF (10_state.md R45): the bytes written since it was last filled, addresses strictly rising, and what the others
are. `draws` counts the fresh draws of its contents (assumption 5). -/
structure Memory where
  fill  : Fill
  draws : Nat
  cells : List Host.Cell
  deriving DecidableEq, Repr

/-- The widths of a host access: 1, 2 or 4 bytes (20_memory.md R62). -/
inductive Width where
  | w1
  | w2
  | w4
  deriving DecidableEq, Repr

/-- What the outside world does next (10_state.md R20, 70_reset_and_hazards.md R230; assumptions 3 and 8). -/
inductive Event where
  /-- `HostRead(off, n)` (20_memory.md R62). -/
  | read (off : Nat) (n : Width)
  /-- `HostWrite(off, n, v)`; a narrow write carries its bytes in the low bits of `v` (20_memory.md R61, R62). -/
  | write (off : Nat) (n : Width) (v : Word)
  /-- The reset input is asserted and released. -/
  | hardReset
  /-- The host does nothing: the engine moves, if BUSY = 1. -/
  | engine
  deriving DecidableEq, Repr

/-- What the bus answers to a host access (20_memory.md R62). -/
inductive Response where
  | value (v : Word)
  | ok
  | busError
  deriving DecidableEq, Repr

/-- The state of one CORE (10_state.md R21), after its instance's parameters (assumption 1); `events` and `responses`
are the model's own view of the host (assumptions 3 and 4). -/
structure State where
  params : Config.Params
  /-- CTRL.IE (R32). -/
  ie : Bool
  /-- STATUS.BUSY (R33). -/
  busy : Bool
  /-- STATUS.DONE (R33). -/
  done : Bool
  /-- STATUS.ECODE (R33). -/
  ecode : ECode
  /-- STATUS.HZ (R33). -/
  hz : Bool
  /-- STATUS.KEYW (R33, R41). -/
  keyw : BitVec 4
  /-- CMD, the last accepted command word (R34). -/
  cmd : Word
  /-- DATA_ADDR and DATA_LEN (R35). -/
  data : Region
  /-- SEG0_ADDR and SEG0_LEN (R36), and so on. -/
  seg0 : Region
  seg1 : Region
  seg2 : Region
  seg3 : Region
  /-- KEY (R41). -/
  key : Block
  /-- IV (R42). -/
  iv : Block
  /-- TAG (R43). -/
  tag : Block
  /-- BUF (R45). -/
  buf : Memory
  /-- What the outside world does next, first event first. -/
  events : List Event
  /-- What the bus has answered, newest first. -/
  responses : List Response
  deriving DecidableEq, Repr

/-- Why the machine stops. -/
inductive Fault where
  /-- Raised by `memRead` and `memWrite` for an engine access outside BUF, which 00_scope.md R13 leaves undefined. SAFE:
  every command checks its ranges before it reads or writes BUF (20_memory.md R70), so no step takes it
  (assumption 11). -/
  | bufOutOfRange
  deriving DecidableEq, Repr

/-- Why an instruction has no meaning here. -/
inductive Refusal where
  /-- Raised by an arm of `exec` whose instruction is not modelled yet; no arm is. SAFE: the machine stops. -/
  | notModelled (mnemonic : String)
  deriving DecidableEq, Repr

/-- What a command or a step answers. -/
abbrev Answer := Host.Outcome State Fault Refusal

/-- A register pair at its reset value (10_state.md R50). -/
def Region.zero : Region := ⟨0#32, 0#32⟩

/-- The state after a hardware reset (10_state.md R50) of an instance with the default parameters (00_scope.md R9), before
the host has done anything. -/
def State.reset : State where
  params := Config.defaults
  ie := false
  busy := false
  done := false
  ecode := .ok
  hz := false
  keyw := 0#4
  cmd := 0#32
  data := Region.zero
  seg0 := Region.zero
  seg1 := Region.zero
  seg2 := Region.zero
  seg3 := Region.zero
  key := 0#128
  iv := 0#128
  tag := 0#128
  buf := ⟨.drawn, 0, []⟩
  events := []
  responses := []

end Sys2Proof.Machine
end

