-- ==== Sys2Proof/Machine/Flags.lean ====
section
/-! DEFINITION. The flags: the fields of STATUS, the CTRL word and the interrupt output (10_state.md R25, R32, R33, R46). -/

namespace Sys2Proof.Machine

/-- The 4-bit number of a completion code (60_exceptions.md R200). -/
def ECode.code : ECode → BitVec 4
  | .ok => 0#4
  | .integrityMismatch => 1#4
  | .tagMismatch => 2#4
  | .malformedLength => 3#4
  | .illegalCommand => 4#4
  | .keyNotLoaded => 5#4

/-- STATUS.ERR: 1 exactly when ECODE is not 0 (10_state.md R33). -/
def State.err (s : State) : Bool := s.ecode != .ok

/-- STATUS.KEYV: 1 exactly when KEYW = 0b1111 (10_state.md R33). -/
def State.keyv (s : State) : Bool := s.keyw == 0xF#4

/-- The word a read of STATUS returns (10_state.md R33): BUSY in bit 0, DONE 1, ERR 2, KEYV 3, ECODE 7:4, HZ 8, KEYW 15:12,
0 elsewhere. -/
def State.statusWord (s : State) : Word :=
  BitVec.ofNat 32 (s.busy.toNat + 2 * s.done.toNat + 4 * s.err.toNat + 8 * s.keyv.toNat + 16 * s.ecode.code.toNat +
    256 * s.hz.toNat + 4096 * s.keyw.toNat)

/-- The word a read of CTRL returns: IE in bit 0, SRST reads 0 (10_state.md R32). -/
def State.ctrlWord (s : State) : Word := BitVec.ofNat 32 s.ie.toNat

/-- The interrupt output: `IRQ = CTRL.IE and STATUS.DONE` (10_state.md R46, 60_exceptions.md R207). -/
def State.irq (s : State) : Bool := s.ie && s.done

end Sys2Proof.Machine
end

