-- ==== Sys2Proof/Machine/Bytes.lean ====
section
/-! DEFINITION. Byte strings and integers: big-endian conversion, xor, and the little-endian word view of a 16-byte
register (00_scope.md R10, R11, 10_state.md R40, 20_memory.md R61, R72). -/

namespace Sys2Proof

/-- `int_be(X)` (00_scope.md R11). -/
def intBe : List Byte → Nat
  | [] => 0
  | x :: xs => 256 ^ xs.length * x.toNat + intBe xs

/-- `BE_n(v)` (00_scope.md R11), for any v: v modulo 2^(8n). -/
def beBytes : Nat → Nat → List Byte
  | 0, _ => []
  | n + 1, v => BitVec.ofNat 8 (v / 256 ^ n) :: beBytes n v

/-- The sixteen bytes of a block, index 0 first. -/
def bytesOfBlock (b : Block) : List Byte := beBytes 16 b.toNat

/-- The block of a 16-byte string. -/
def blockOfBytes (xs : List Byte) : Block := BitVec.ofNat 128 (intBe xs)

/-- The eight bytes of a key-wrap register, index 0 first. -/
def bytesOfSemi (r : Semi) : List Byte := beBytes 8 r.toNat

/-- The key-wrap register of an 8-byte string. -/
def semiOfBytes (xs : List Byte) : Semi := BitVec.ofNat 64 (intBe xs)

/-- `rep(b, n)` (00_scope.md R10). -/
def rep (b : Byte) (n : Nat) : List Byte := List.replicate n b

/-- `zeros(n)` (00_scope.md R10). -/
def zeros (n : Nat) : List Byte := rep 0#8 n

/-- `X xor Y` byte by byte, as long as the shorter of the two (00_scope.md R10, 43_ctr.md R161). -/
def xorBytes (xs ys : List Byte) : List Byte := List.zipWith (· ^^^ ·) xs ys

/-- Four bytes as a 32-bit number, the first most significant. -/
def joinBytes (x0 x1 x2 x3 : Byte) : Word := x0 ++ x1 ++ x2 ++ x3

/-- Byte k of a bus word, k = 0..3: bits `[8k+7 : 8k]` (20_memory.md R61). -/
def laneByte (v : Word) (k : Nat) : Byte := v.extractLsb' (8 * k) 8

/-- A word read over little-endian byte lanes: `x0 + 2^8*x1 + 2^16*x2 + 2^24*x3` (20_memory.md R61). -/
def leWord (x0 x1 x2 x3 : Byte) : Word := joinBytes x3 x2 x1 x0

/-- The four bytes of a word in the other order: from a bus word (little-endian lanes, 20_memory.md R61) to four bytes of a
16-byte register with the first most significant, or back. -/
def swapBytes (v : Word) : Word := joinBytes (laneByte v 0) (laneByte v 1) (laneByte v 2) (laneByte v 3)

/-- `A ‖ R` of two 8-byte strings (00_scope.md R10, 41_keywrap.md R141). -/
def joinSemis (a r : Semi) : Block := a ++ r

/-- `B[0..8)`: DOC's "high-8-bytes" (41_keywrap.md R141). -/
def highSemi (b : Block) : Semi := b.extractLsb' 64 64

/-- `B[8..16)`: DOC's "low-8-bytes" (41_keywrap.md R141). -/
def lowSemi (b : Block) : Semi := b.extractLsb' 0 64

/-- Four 4-byte strings as a block, the first at the lowest index. -/
def joinWords (w0 w1 w2 w3 : Word) : Block := w0 ++ w1 ++ w2 ++ w3

/-- Bytes 4w..4w+3 of a block, w = 0..3, the first most significant. -/
def quarter (b : Block) (w : Nat) : Word := b.extractLsb' (32 * (3 - w)) 32

/-- Byte k of a block, k = 0..15. -/
def byteOfBlock (b : Block) (k : Nat) : Byte := b.extractLsb' (8 * (15 - k)) 8

/-- Word w of a 16-byte register: bytes 4w..4w+3, byte 4w + k in bits `[8k+7 : 8k]` (10_state.md R40). -/
def wordOfBlock (b : Block) (w : Fin 4) : Word := swapBytes (quarter b w.val)

/-- A 16-byte register with bytes 4w..4w+3 replaced by the four bytes of `v` (10_state.md R40, R41). -/
def setWordOfBlock (b : Block) (w : Fin 4) (v : Word) : Block :=
  match w with
  | 0 => joinWords (swapBytes v) (quarter b 1) (quarter b 2) (quarter b 3)
  | 1 => joinWords (quarter b 0) (swapBytes v) (quarter b 2) (quarter b 3)
  | 2 => joinWords (quarter b 0) (quarter b 1) (swapBytes v) (quarter b 3)
  | 3 => joinWords (quarter b 0) (quarter b 1) (quarter b 2) (swapBytes v)

end Sys2Proof
end

