-- ==== Sys2Proof/Machine/Ops.lean ====
section
/-! DEFINITION. The named operations over BUF and the registers: reading and writing BUF, completing a command with a
code (the one way a failure is taken), accepting a command word, and the resets. -/

namespace Sys2Proof.Machine

/-! ### BUF (10_state.md R45, R50; assumption 5) -/

/-- What an address that no cell lists holds: nothing known, or 0x00 after a ZEROIZE. -/
def Memory.unlisted (m : Memory) : Option Byte :=
  match m.fill with
  | .drawn => none
  | .zeroed => some 0#8

/-- The byte known to be at an address. -/
def Memory.find (m : Memory) (a : Nat) : Option Byte :=
  match m.cells.lookup a with
  | some b => some b
  | none => m.unlisted

/-- The byte at an address: the last one written there (10_state.md R45), or a free value where BUF is unspecified. -/
def Memory.read (m : Memory) (a : Nat) : Byte :=
  match m.find a with
  | some b => b
  | none => Config.freeByte m.draws a

/-- `BUF[a..a+n)` (00_scope.md R13). -/
def Memory.readBytes (m : Memory) (a : Nat) : Nat → List Byte
  | 0 => []
  | n + 1 => m.read a :: m.readBytes (a + 1) n

/-- The cells of a byte string at an address, less the bytes that an unlisted address holds anyway. -/
def cellsOf (u : Option Byte) : Nat → List Byte → List Host.Cell
  | _, [] => []
  | a, x :: xs => if u = some x then cellsOf u (a + 1) xs else (a, x) :: cellsOf u (a + 1) xs

/-- `BUF[a..a+len(xs)) <- xs` (00_scope.md R13), in canonical form. -/
def Memory.write (m : Memory) (a : Nat) (xs : List Byte) : Memory :=
  { m with cells := m.cells.filter (fun c => c.1 < a) ++ cellsOf m.unlisted a xs ++
      m.cells.filter (fun c => a + xs.length ≤ c.1) }

/-- Every byte of BUF becomes 0x00 (47_system.md R191). -/
def Memory.clear (m : Memory) : Memory := { m with fill := .zeroed, cells := [] }

/-- Every byte of BUF becomes unspecified: a fresh draw (10_state.md R50, 47_system.md R192). -/
def Memory.redraw (m : Memory) : Memory := { fill := .drawn, draws := m.draws + 1, cells := [] }

/-- The canonical form: addresses strictly rising and inside BUF, and no cell that an unlisted address would match. -/
abbrev Memory.wf (size : Nat) (m : Memory) : Prop :=
  m.cells.Pairwise (fun c d => c.1 < d.1) ∧ ∀ c ∈ m.cells, c.1 < size ∧ m.unlisted ≠ some c.2

/-! ### Engine accesses (00_scope.md R13) -/

/-- `MemRead(a, n)`, defined only inside BUF. -/
def memRead (s : State) (a n : Nat) (k : List Byte → Answer) : Answer :=
  if a + n ≤ s.params.bufBytes then k (s.buf.readBytes a n) else .fault .bufOutOfRange

/-- The state after `MemWrite(a, len(xs), xs)`. -/
def State.putBytes (s : State) (a : Nat) (xs : List Byte) : State := { s with buf := s.buf.write a xs }

/-- `MemWrite(a, len(xs), xs)`, defined only inside BUF. -/
def memWrite (s : State) (a : Nat) (xs : List Byte) (k : State → Answer) : Answer :=
  if a + xs.length ≤ s.params.bufBytes then k (s.putBytes a xs) else .fault .bufOutOfRange

/-! ### Starting and completing a command (30_encoding.md R102) -/

/-- An accepted CMD write: the word is stored, DONE and ECODE are cleared, BUSY is set (30_encoding.md R102). -/
def State.accept (s : State) (w : Word) : State := { s with cmd := w, done := false, ecode := .ok, busy := true }

/-- Completion with a code: ECODE <- code, BUSY <- 0, DONE <- 1 (30_encoding.md R102). With a code other than `ok` this is
the CORE's whole exception entry: it saves nothing and transfers control nowhere (60_exceptions.md R209). -/
def State.complete (s : State) (c : ECode) : State := { s with ecode := c, busy := false, done := true }

/-- A command ends with a code; what it wrote before stays written (00_scope.md R14, 60_exceptions.md R209). -/
def finish (c : ECode) (s : State) : Answer := .next (s.complete c)

/-- The host's acknowledgement, the analogue of a trap return: DONE <- 0, ECODE keeps its value (60_exceptions.md R210). -/
def State.acknowledge (s : State) : State := { s with done := false }

/-- HZ <- 0 (10_state.md R33). -/
def State.clearHazard (s : State) : State := { s with hz := false }

/-- HZ <- 1: a host access was refused because BUSY = 1 (20_memory.md R66). -/
def State.setHazard (s : State) : State := { s with hz := true }

/-- CTRL.IE <- b (10_state.md R32). -/
def State.setIe (s : State) (b : Bool) : State := { s with ie := b }

/-! ### The 16-byte registers (10_state.md R40 to R43) -/

/-- TAG <- t. -/
def State.putTag (s : State) (t : Block) : State := { s with tag := t }

/-- A host write of KEY word w: four bytes replaced, KEYW bit w set (10_state.md R41). -/
def State.putKeyWord (s : State) (w : Fin 4) (v : Word) : State :=
  { s with key := setWordOfBlock s.key w v, keyw := s.keyw ||| (1#4 <<< w.val) }

/-- A host write of IV word w (10_state.md R42). -/
def State.putIvWord (s : State) (w : Fin 4) (v : Word) : State := { s with iv := setWordOfBlock s.iv w v }

/-- A host write of TAG word w (10_state.md R43). -/
def State.putTagWord (s : State) (w : Fin 4) (v : Word) : State := { s with tag := setWordOfBlock s.tag w v }

/-! ### Clearing (70_reset_and_hazards.md R231) -/

/-- KEY, KEYW, IV, TAG and every byte of BUF <- 0 (47_system.md R191). -/
def State.zeroized (s : State) : State :=
  { s with key := 0#128, keyw := 0#4, iv := 0#128, tag := 0#128, buf := s.buf.clear }

/-- Every register at its reset value, BUF untouched (10_state.md R50, 47_system.md R192). -/
def State.clearRegisters (s : State) : State :=
  { s with
    ie := false, busy := false, done := false, ecode := .ok, hz := false, keyw := 0#4, cmd := 0#32,
    data := Region.zero, seg0 := Region.zero, seg1 := Region.zero, seg2 := Region.zero, seg3 := Region.zero,
    key := 0#128, iv := 0#128, tag := 0#128 }

/-- The soft reset (47_system.md R192): BUF is kept when BUSY = 0 and becomes unspecified when a command is abandoned. -/
def State.softReset (s : State) : State :=
  { s.clearRegisters with buf := if s.busy then s.buf.redraw else s.buf }

/-- The hardware reset (70_reset_and_hazards.md R230, 10_state.md R50). -/
def State.hardReset (s : State) : State := { s.clearRegisters with buf := s.buf.redraw }

end Sys2Proof.Machine
end

