-- ==== Sys2Proof/Machine/Bus.lean ====
section
/-! DEFINITION. The host's accesses: address map, checks, busy gate and effects (10_state.md R30 to R43,
20_memory.md R60 to R68). -/

namespace Sys2Proof.Machine

/-- The ten operand registers (10_state.md R23). -/
inductive OperandReg where
  | dataAddr
  | dataLen
  | segAddr (i : Fin 4)
  | segLen (i : Fin 4)
  deriving DecidableEq, Repr

/-- What a host access that passes the checks reaches (20_memory.md R63). -/
inductive Target where
  | id
  | ctrl
  | status
  | cmd
  | operand (r : OperandReg)
  | key (w : Fin 4)
  | iv (w : Fin 4)
  | tag (w : Fin 4)
  /-- BUF from address a. -/
  | buf (a : Nat)
  deriving DecidableEq, Repr

/-- The register map (10_state.md R30); an offset not listed is reserved. -/
def registerMap : List (Nat × Target) :=
  [(0x000, .id), (0x004, .ctrl), (0x008, .status), (0x00C, .cmd),
   (0x010, .operand .dataAddr), (0x014, .operand .dataLen),
   (0x018, .operand (.segAddr 0)), (0x01C, .operand (.segLen 0)),
   (0x020, .operand (.segAddr 1)), (0x024, .operand (.segLen 1)),
   (0x028, .operand (.segAddr 2)), (0x02C, .operand (.segLen 2)),
   (0x030, .operand (.segAddr 3)), (0x034, .operand (.segLen 3)),
   (0x040, .key 0), (0x044, .key 1), (0x048, .key 2), (0x04C, .key 3),
   (0x050, .iv 0), (0x054, .iv 1), (0x058, .iv 2), (0x05C, .iv 3),
   (0x060, .tag 0), (0x064, .tag 1), (0x068, .tag 2), (0x06C, .tag 3)]

/-- The number of bytes of an access. -/
def Width.bytes : Width → Nat
  | .w1 => 1
  | .w2 => 2
  | .w4 => 4

/-- What an access reaches, or none for BusError: width and alignment, then mapping (20_memory.md R62, R64, R65). -/
def hostTarget (p : Config.Params) (off : Nat) (n : Width) : Option Target :=
  if off % n.bytes ≠ 0 then none
  else if off < 0x070 then (if n = .w4 then registerMap.lookup off else none)
  else if p.bufOff ≤ off ∧ off + n.bytes ≤ p.bufOff + p.bufBytes then some (.buf (off - p.bufOff))
  else none

/-- ID, CTRL and STATUS are reachable while BUSY = 1 (20_memory.md R66). -/
def Target.gateExempt : Target → Bool
  | .id | .ctrl | .status => true
  | .cmd | .operand _ | .key _ | .iv _ | .tag _ | .buf _ => false

/-- The access is refused: BUSY = 1 and the target is gated (20_memory.md R66). -/
def gated (s : State) (t : Target) : Bool := s.busy && !t.gateExempt

/-- Segment i (10_state.md R36). -/
def State.segment (s : State) : Fin 4 → Region
  | 0 => s.seg0
  | 1 => s.seg1
  | 2 => s.seg2
  | 3 => s.seg3

/-- Segment i replaced. -/
def State.putSegment (s : State) (i : Fin 4) (r : Region) : State :=
  match i with
  | 0 => { s with seg0 := r }
  | 1 => { s with seg1 := r }
  | 2 => { s with seg2 := r }
  | 3 => { s with seg3 := r }

def readOperand (s : State) : OperandReg → Word
  | .dataAddr => s.data.addr
  | .dataLen => s.data.len
  | .segAddr i => (s.segment i).addr
  | .segLen i => (s.segment i).len

def writeOperand (s : State) (r : OperandReg) (v : Word) : State :=
  match r with
  | .dataAddr => { s with data := { s.data with addr := v } }
  | .dataLen => { s with data := { s.data with len := v } }
  | .segAddr i => s.putSegment i { s.segment i with addr := v }
  | .segLen i => s.putSegment i { s.segment i with len := v }

/-- The little-endian value of BUF from address a (20_memory.md R61). -/
def readWindow (m : Memory) (a : Nat) : Width → Word
  | .w1 => leWord (m.read a) 0#8 0#8 0#8
  | .w2 => leWord (m.read a) (m.read (a + 1)) 0#8 0#8
  | .w4 => leWord (m.read a) (m.read (a + 1)) (m.read (a + 2)) (m.read (a + 3))

/-- The bytes a write of width n carries, lowest address first (20_memory.md R61). -/
def laneBytes (n : Width) (v : Word) : List Byte := (List.range n.bytes).map (laneByte v)

/-- What a read returns (20_memory.md R63); KEY reads as 0 (10_state.md R41). -/
def readTarget (s : State) (n : Width) : Target → Word
  | .id => s.params.idValue
  | .ctrl => s.ctrlWord
  | .status => s.statusWord
  | .cmd => s.cmd
  | .operand r => readOperand s r
  | .key _ => 0#32
  | .iv w => wordOfBlock s.iv w
  | .tag w => wordOfBlock s.tag w
  | .buf a => readWindow s.buf a n

/-- A write to CTRL: IE takes bit 0, then bit 1 = 1 resets (10_state.md R32, 20_memory.md R63, 90_conflicts.md C9). -/
def writeCtrl (s : State) (v : Word) : State :=
  if v.getLsbD 1 then (s.setIe (v.getLsbD 0)).softReset else s.setIe (v.getLsbD 0)

/-- A write to STATUS: 1 in bit 1 clears DONE, 1 in bit 8 clears HZ, nothing else (10_state.md R33). -/
def writeStatus (s : State) (v : Word) : State :=
  let s1 := if v.getLsbD 1 then s.acknowledge else s
  if v.getLsbD 8 then s1.clearHazard else s1

/-- What a write does (20_memory.md R63); a write to ID does nothing (10_state.md R31). -/
def writeTarget (s : State) (n : Width) (v : Word) : Target → State
  | .id => s
  | .ctrl => writeCtrl s v
  | .status => writeStatus s v
  | .cmd => s.accept v
  | .operand r => writeOperand s r v
  | .key w => s.putKeyWord w v
  | .iv w => s.putIvWord w v
  | .tag w => s.putTagWord w v
  | .buf a => s.putBytes a (laneBytes n v)

/-- `HostRead(off, n)`: the answer and the state after (20_memory.md R62, R66). -/
def hostRead (s : State) (off : Nat) (n : Width) : Response × State :=
  match hostTarget s.params off n with
  | none => (.busError, s)
  | some t => if gated s t then (.value 0#32, s.setHazard) else (.value (readTarget s n t), s)

/-- `HostWrite(off, n, v)`: the answer and the state after (20_memory.md R62, R66). -/
def hostWrite (s : State) (off : Nat) (n : Width) (v : Word) : Response × State :=
  match hostTarget s.params off n with
  | none => (.busError, s)
  | some t => if gated s t then (.ok, s.setHazard) else (.ok, writeTarget s n v t)

/-- The answer of an access is recorded (assumption 4). -/
def respond (r : Response × State) : State := { r.2 with responses := r.1 :: r.2.responses }

end Sys2Proof.Machine
end

