-- ==== Sys2Proof/Syntax.lean ====
section
/-! DEFINITION. The twelve commands, one constructor per row of the opcode table (30_encoding.md R92). -/

namespace Sys2Proof

/-- A command. Its only operand in the command word is the number of CMAC segments (30_encoding.md R93). -/
inductive Instr where
  | nop
  | ecbEnc
  | ecbDec
  | kwWrap
  | kwUnwrap
  | cmac (nseg : Nat)
  | ctr
  | eaxEnc
  | eaxDec
  | cbcEnc
  | cbcDec
  | zeroize
  deriving DecidableEq, Repr

end Sys2Proof
end

