-- ==== Sys2Proof/WellFormed.lean ====
section
/-! DEFINITION. Which commands have a word (30_encoding.md R91, R92): NSEG is at most 4. -/

namespace Sys2Proof

/-- NSEG counts 0 to 4 segments (30_encoding.md R91); nothing else in a command can be ill formed. -/
def Instr.wellFormed : Instr → Bool
  | .cmac nseg => decide (nseg ≤ 4)
  | .nop | .ecbEnc | .ecbDec | .kwWrap | .kwUnwrap | .ctr | .eaxEnc | .eaxDec | .cbcEnc | .cbcDec | .zeroize => true

end Sys2Proof
end

