-- ==== Sys2Proof/Decode.lean ====
section
/-! DEFINITION. The command word: fields, decoder (total, rejecting by name) and encoder (30_encoding.md R90 to R94). -/

namespace Sys2Proof

/-- Why a word is Illegal (30_encoding.md R94). -/
inductive Reject where
  /-- A bit of `w[31:11]` is set. -/
  | zeroFieldSet
  /-- CMAC with NSEG 5, 6 or 7. -/
  | tooManySegments
  /-- NSEG not 0 on an operation other than CMAC. -/
  | strayNseg
  /-- OP is not in the table of R92. -/
  | reservedOp
  deriving DecidableEq, Repr

/-- OP = `w[7:0]` (30_encoding.md R91). -/
def opField (w : Word) : BitVec 8 := w.extractLsb' 0 8

/-- NSEG = `w[10:8]` (30_encoding.md R91). -/
def nsegField (w : Word) : BitVec 3 := w.extractLsb' 8 3

/-- ZERO = `w[31:11]` (30_encoding.md R91). -/
def zeroField (w : Word) : BitVec 21 := w.extractLsb' 11 21

/-- OP of CMAC, the one operation that has an NSEG. -/
def cmacOp : BitVec 8 := 0x30#8

/-- The rows of 30_encoding.md R92 but for CMAC, by OP. -/
def plainOps : List (BitVec 8 × Instr) :=
  [(0x00#8, .nop), (0x10#8, .ecbEnc), (0x11#8, .ecbDec), (0x20#8, .kwWrap), (0x21#8, .kwUnwrap), (0x40#8, .ctr),
   (0x50#8, .eaxEnc), (0x51#8, .eaxDec), (0x60#8, .cbcEnc), (0x61#8, .cbcDec), (0xF0#8, .zeroize)]

/-- `decode(w)` of 30_encoding.md R94. -/
def decode (w : Word) : Except Reject Instr :=
  if zeroField w ≠ 0#21 then .error .zeroFieldSet
  else if opField w = cmacOp then
    if (nsegField w).toNat ≤ 4 then .ok (.cmac (nsegField w).toNat) else .error .tooManySegments
  else if nsegField w ≠ 0#3 then .error .strayNseg
  else
    match plainOps.lookup (opField w) with
    | some i => .ok i
    | none => .error .reservedOp

/-- OP of a command (30_encoding.md R92). -/
def opcode : Instr → BitVec 8
  | .nop => 0x00#8
  | .ecbEnc => 0x10#8
  | .ecbDec => 0x11#8
  | .kwWrap => 0x20#8
  | .kwUnwrap => 0x21#8
  | .cmac _ => cmacOp
  | .ctr => 0x40#8
  | .eaxEnc => 0x50#8
  | .eaxDec => 0x51#8
  | .cbcEnc => 0x60#8
  | .cbcDec => 0x61#8
  | .zeroize => 0xF0#8

/-- NSEG of a command: 0 but for CMAC (30_encoding.md R91). -/
def nsegOperand : Instr → Nat
  | .cmac nseg => nseg
  | .nop | .ecbEnc | .ecbDec | .kwWrap | .kwUnwrap | .ctr | .eaxEnc | .eaxDec | .cbcEnc | .cbcDec | .zeroize => 0

/-- The command word of a well-formed command (30_encoding.md R91, R92): OP in bits 7:0, NSEG in bits 10:8, ZERO 0. -/
def encode (i : Instr) : Word := BitVec.ofNat 32 (256 * nsegOperand i + (opcode i).toNat)

/-- The low `nbits` bits of `w` as a command word, bits above them 0: a command is one 32-bit word (30_encoding.md R90). -/
def tableWord (nbits w : Nat) : Word := BitVec.ofNat 32 (w % 2 ^ nbits)

/-- The command the decoder reads from a word numbered as `spec/opcode_table.json` numbers it. -/
def decodeTableWord (nbits w : Nat) : Option Instr := (decode (tableWord nbits w)).toOption

end Sys2Proof
end

