-- ==== Sys2Proof/Machine/Aes.lean ====
section
/-! DEFINITION. AES-128, both directions (40_ecb.md R111 to R124). The spec marks these rules as general knowledge, not
in source; see assumption 9. -/

namespace Sys2Proof

/-- Four bytes, top to bottom: a column of the state (R111) or a word of the key schedule (R121). -/
structure Column where
  b0 : Byte
  b1 : Byte
  b2 : Byte
  b3 : Byte
  deriving DecidableEq, Repr

/-- The AES state: four columns (R111). Byte `r + 4c` of the block is byte r of column c. -/
structure AesState where
  c0 : Column
  c1 : Column
  c2 : Column
  c3 : Column
  deriving DecidableEq, Repr

/-- A 4-byte string as a column, first byte on top (R111). -/
def columnOfWord (w : Word) : Column := ⟨laneByte w 3, laneByte w 2, laneByte w 1, laneByte w 0⟩

/-- A column as a 4-byte string (R111). -/
def wordOfColumn (c : Column) : Word := joinBytes c.b0 c.b1 c.b2 c.b3

/-- The block copied into the state column by column (R111). -/
def aesStateOfBlock (b : Block) : AesState :=
  ⟨columnOfWord (quarter b 0), columnOfWord (quarter b 1), columnOfWord (quarter b 2), columnOfWord (quarter b 3)⟩

/-- The state read back as a block, in the same order (R111). -/
def blockOfAesState (s : AesState) : Block :=
  joinWords (wordOfColumn s.c0) (wordOfColumn s.c1) (wordOfColumn s.c2) (wordOfColumn s.c3)

/-- Multiplication by x in GF(2^8) (R112). -/
def xtime (a : Byte) : Byte := if a.getLsbD 7 then (a <<< 1) ^^^ 0x1B#8 else a <<< 1

/-- `2•a`, `3•a`, `9•a`, `11•a`, `13•a`, `14•a` of R112. -/
def mul2 (a : Byte) : Byte := xtime a
def mul3 (a : Byte) : Byte := xtime a ^^^ a
def mul9 (a : Byte) : Byte := xtime (xtime (xtime a)) ^^^ a
def mul11 (a : Byte) : Byte := xtime (xtime (xtime a)) ^^^ xtime a ^^^ a
def mul13 (a : Byte) : Byte := xtime (xtime (xtime a)) ^^^ xtime (xtime a) ^^^ a
def mul14 (a : Byte) : Byte := xtime (xtime (xtime a)) ^^^ xtime (xtime a) ^^^ xtime a

/-- The general product `a • b` of R112: the xor, over the set bits i of b, of `xtime` applied i times to a. -/
def gfMul (a b : Byte) : Byte :=
  (List.range 8).foldl (fun acc i => if b.getLsbD i then acc ^^^ xtime^[i] a else acc) 0#8

/-- The table of R113: row = high nibble of a, and in a row the byte of low nibble 0 first. -/
def sboxRows : List (BitVec 128) :=
  [0x637c777bf26b6fc53001672bfed7ab76#128,
   0xca82c97dfa5947f0add4a2af9ca472c0#128,
   0xb7fd9326363ff7cc34a5e5f171d83115#128,
   0x04c723c31896059a071280e2eb27b275#128,
   0x09832c1a1b6e5aa0523bd6b329e32f84#128,
   0x53d100ed20fcb15b6acbbe394a4c58cf#128,
   0xd0efaafb434d338545f9027f503c9fa8#128,
   0x51a3408f929d38f5bcb6da2110fff3d2#128,
   0xcd0c13ec5f974417c4a77e3d645d1973#128,
   0x60814fdc222a908846eeb814de5e0bdb#128,
   0xe0323a0a4906245cc2d3ac629195e479#128,
   0xe7c8376d8dd54ea96c56f4ea657aae08#128,
   0xba78252e1ca6b4c6e8dd741f4bbd8b8a#128,
   0x703eb5664803f60e613557b986c11d9e#128,
   0xe1f8981169d98e949b1e87e9ce5528df#128,
   0x8ca1890dbfe6426841992d0fb054bb16#128]

/-- The table of R114. -/
def invSboxRows : List (BitVec 128) :=
  [0x52096ad53036a538bf40a39e81f3d7fb#128,
   0x7ce339829b2fff87348e4344c4dee9cb#128,
   0x547b9432a6c2233dee4c950b42fac34e#128,
   0x082ea16628d924b2765ba2496d8bd125#128,
   0x72f8f66486689816d4a45ccc5d65b692#128,
   0x6c704850fdedb9da5e154657a78d9d84#128,
   0x90d8ab008cbcd30af7e45805b8b34506#128,
   0xd02c1e8fca3f0f02c1afbd0301138a6b#128,
   0x3a9111414f67dcea97f2cfcef0b4e673#128,
   0x96ac7422e7ad3585e2f937e81c75df6e#128,
   0x47f11a711d29c5896fb7620eaa18be1b#128,
   0xfc563e4bc6d279209adbc0fe78cd5af4#128,
   0x1fdda8338807c731b11210592780ec5f#128,
   0x60517fa919b54a0d2de57a9f93c99cef#128,
   0xa0e03b4dae2af5b0c8ebbb3c83539961#128,
   0x172b047eba77d626e169146355210c7d#128]

/-- The entry of a 16-row table for a byte: row = high nibble, column = low nibble. -/
def tableByte (rows : List (BitVec 128)) (a : Byte) : Byte :=
  byteOfBlock (rows.getD (a.toNat / 16) 0#128) (a.toNat % 16)

/-- `SBOX[a]` (R113). -/
def sbox (a : Byte) : Byte := tableByte sboxRows a

/-- `INVSBOX[a]` (R114). -/
def invSbox (a : Byte) : Byte := tableByte invSboxRows a

def mapColumn (f : Byte → Byte) (c : Column) : Column := ⟨f c.b0, f c.b1, f c.b2, f c.b3⟩

def xorColumn (c d : Column) : Column := ⟨c.b0 ^^^ d.b0, c.b1 ^^^ d.b1, c.b2 ^^^ d.b2, c.b3 ^^^ d.b3⟩

def mapColumns (f : Column → Column) (s : AesState) : AesState := ⟨f s.c0, f s.c1, f s.c2, f s.c3⟩

/-- SubBytes (R115). -/
def subBytes (s : AesState) : AesState := mapColumns (mapColumn sbox) s

/-- InvSubBytes (R115). -/
def invSubBytes (s : AesState) : AesState := mapColumns (mapColumn invSbox) s

/-- ShiftRows: row r rotated left by r (R116). -/
def shiftRows (s : AesState) : AesState :=
  ⟨⟨s.c0.b0, s.c1.b1, s.c2.b2, s.c3.b3⟩, ⟨s.c1.b0, s.c2.b1, s.c3.b2, s.c0.b3⟩,
   ⟨s.c2.b0, s.c3.b1, s.c0.b2, s.c1.b3⟩, ⟨s.c3.b0, s.c0.b1, s.c1.b2, s.c2.b3⟩⟩

/-- InvShiftRows: row r rotated right by r (R117). -/
def invShiftRows (s : AesState) : AesState :=
  ⟨⟨s.c0.b0, s.c3.b1, s.c2.b2, s.c1.b3⟩, ⟨s.c1.b0, s.c0.b1, s.c3.b2, s.c2.b3⟩,
   ⟨s.c2.b0, s.c1.b1, s.c0.b2, s.c3.b3⟩, ⟨s.c3.b0, s.c2.b1, s.c1.b2, s.c0.b3⟩⟩

/-- MixColumns on one column (R118). -/
def mixColumn (a : Column) : Column :=
  ⟨mul2 a.b0 ^^^ mul3 a.b1 ^^^ a.b2 ^^^ a.b3, a.b0 ^^^ mul2 a.b1 ^^^ mul3 a.b2 ^^^ a.b3,
   a.b0 ^^^ a.b1 ^^^ mul2 a.b2 ^^^ mul3 a.b3, mul3 a.b0 ^^^ a.b1 ^^^ a.b2 ^^^ mul2 a.b3⟩

/-- InvMixColumns on one column (R119). -/
def invMixColumn (a : Column) : Column :=
  ⟨mul14 a.b0 ^^^ mul11 a.b1 ^^^ mul13 a.b2 ^^^ mul9 a.b3, mul9 a.b0 ^^^ mul14 a.b1 ^^^ mul11 a.b2 ^^^ mul13 a.b3,
   mul13 a.b0 ^^^ mul9 a.b1 ^^^ mul14 a.b2 ^^^ mul11 a.b3, mul11 a.b0 ^^^ mul13 a.b1 ^^^ mul9 a.b2 ^^^ mul14 a.b3⟩

/-- MixColumns (R118). -/
def mixColumns (s : AesState) : AesState := mapColumns mixColumn s

/-- InvMixColumns (R119). -/
def invMixColumns (s : AesState) : AesState := mapColumns invMixColumn s

/-- AddRoundKey (R120). -/
def addRoundKey (s rk : AesState) : AesState :=
  ⟨xorColumn s.c0 rk.c0, xorColumn s.c1 rk.c1, xorColumn s.c2 rk.c2, xorColumn s.c3 rk.c3⟩

/-- `RCON[1..10]` (R121). -/
def rcon : List Byte := [0x01#8, 0x02#8, 0x04#8, 0x08#8, 0x10#8, 0x20#8, 0x40#8, 0x80#8, 0x1b#8, 0x36#8]

/-- RotWord, SubWord, and RCON into the first byte: what R121 does to `w[i-1]` when `i mod 4 = 0`. -/
def scheduleCore (rc : Byte) (t : Column) : Column := ⟨sbox t.b1 ^^^ rc, sbox t.b2, sbox t.b3, sbox t.b0⟩

/-- The four words `w[4r..4r+3]` from the four before them (R121; assumption 7). -/
def nextRoundKey (rc : Byte) (rk : AesState) : AesState :=
  let w0 := xorColumn rk.c0 (scheduleCore rc rk.c3)
  let w1 := xorColumn rk.c1 w0
  let w2 := xorColumn rk.c2 w1
  let w3 := xorColumn rk.c3 w2
  ⟨w0, w1, w2, w3⟩

/-- The round keys that follow `rk`, one for each round constant. -/
def roundKeysFrom (rk : AesState) : List Byte → List AesState
  | [] => []
  | rc :: rcs => nextRoundKey rc rk :: roundKeysFrom (nextRoundKey rc rk) rcs

/-- `rk[1..10]` of a key (R121); `rk[0]` is the key itself. -/
def roundKeys (k : Block) : List AesState := roundKeysFrom (aesStateOfBlock k) rcon

/-- The rounds of R122 after the first AddRoundKey: all have MixColumns but the last. -/
def cipherRounds : List AesState → AesState → AesState
  | [], s => s
  | [rk], s => addRoundKey (shiftRows (subBytes s)) rk
  | rk :: rks, s => cipherRounds rks (addRoundKey (mixColumns (shiftRows (subBytes s))) rk)

/-- The rounds of R123, undoing `cipherRounds` with the same list of round keys. -/
def invCipherRounds : List AesState → AesState → AesState
  | [], s => s
  | [rk], s => invSubBytes (invShiftRows (addRoundKey s rk))
  | rk :: rks, s => invSubBytes (invShiftRows (invMixColumns (addRoundKey (invCipherRounds rks s) rk)))

/-- `E(K, X)` (R122). -/
def aesE (k x : Block) : Block :=
  blockOfAesState (cipherRounds (roundKeys k) (addRoundKey (aesStateOfBlock x) (aesStateOfBlock k)))

/-- `Dinv(K, Y)` (R123). -/
def aesDinv (k y : Block) : Block :=
  blockOfAesState (addRoundKey (invCipherRounds (roundKeys k) (aesStateOfBlock y)) (aesStateOfBlock k))

end Sys2Proof
end

