-- ==== Sys2Proof/Machine/Operands.lean ====
section
/-! DEFINITION. The operands of a command and the conditions on them, in the order of priority of 60_exceptions.md R208
(30_encoding.md R97, R102). -/

namespace Sys2Proof.Machine

/-- The four segments, in index order (10_state.md R36). -/
def State.segments (s : State) : List Region := [s.seg0, s.seg1, s.seg2, s.seg3]

/-- `addr + len <= BUF_BYTES` on unbounded integers (20_memory.md R70). -/
def Region.inRange (p : Config.Params) (r : Region) : Bool := decide (r.addr.toNat + r.len.toNat ≤ p.bufBytes)

/-- The key check of every keyed command: KEYW = 0b1111, else KeyNotLoaded (10_state.md R41, 60_exceptions.md R204). -/
def requireKey (s : State) (k : Answer) : Answer := if s.keyw = 0xF#4 then k else finish .keyNotLoaded s

/-- The condition on the form of DATA_LEN, else MalformedLength (30_encoding.md R97, 60_exceptions.md R203 (a)). -/
def requireForm (form : Bool) (s : State) (k : Answer) : Answer := if form then k else finish .malformedLength s

/-- Every region a command uses is in range, else MalformedLength (20_memory.md R70, 60_exceptions.md R203 (b)). -/
def requireRegions (rs : List Region) (s : State) (k : Answer) : Answer :=
  if rs.all (Region.inRange s.params) then k else finish .malformedLength s

/-- The old contents of a region. -/
def readRegion (s : State) (r : Region) (k : List Byte → Answer) : Answer := memRead s r.addr.toNat r.len.toNat k

/-- The old contents of a list of regions, one string for each. -/
def readRegions (s : State) : List Region → (List (List Byte) → Answer) → Answer
  | [], k => k []
  | r :: rs, k => readRegion s r fun x => readRegions s rs fun xs => k (x :: xs)

/-- A command that replaces the DATA region by a function of it and succeeds (10_state.md R35). -/
def transformData (s : State) (f : List Byte → List Byte) : Answer :=
  readRegion s s.data fun x => memWrite s s.data.addr.toNat (f x) (finish .ok)

end Sys2Proof.Machine
end

