-- ==== Sys2Proof/Machine/Cbc.lean ====
section
/-! DEFINITION. CBC and the commands CBC_ENC and CBC_DEC (45_cbc.md R180 to R184). -/

namespace Sys2Proof.Machine

/-- The first n blocks of `CBCenc(K, V, D)` (45_cbc.md R180). -/
def cbcEncBlocks (key : Block) : Nat → Block → List Byte → List Byte
  | 0, _, _ => []
  | n + 1, ch, d =>
    let c := aesE key (blockOfBytes (d.take 16) ^^^ ch)
    bytesOfBlock c ++ cbcEncBlocks key n c (d.drop 16)

/-- The first n blocks of `CBCdec(K, V, C)` (45_cbc.md R181). -/
def cbcDecBlocks (key : Block) : Nat → Block → List Byte → List Byte
  | 0, _, _ => []
  | n + 1, ch, d =>
    let c := blockOfBytes (d.take 16)
    bytesOfBlock (aesDinv key c ^^^ ch) ++ cbcDecBlocks key n c (d.drop 16)

/-- `CBCenc(K, V, D)` (45_cbc.md R180). -/
def cbcEnc (key v : Block) (d : List Byte) : List Byte := cbcEncBlocks key (d.length / 16) v d

/-- `CBCdec(K, V, C)` (45_cbc.md R181). -/
def cbcDec (key v : Block) (c : List Byte) : List Byte := cbcDecBlocks key (c.length / 16) v c

/-- The conditions of both commands: the key, DATA_LEN mod 16 = 0, the DATA region in range (45_cbc.md R182, R183). -/
def cbcChecks (s : State) (k : Answer) : Answer :=
  requireKey s <| requireForm (decide (s.data.len.toNat % 16 = 0)) s <| requireRegions [s.data] s k

/-- CBC_ENC: CBC-encrypt the DATA region in place, from the chaining value in IV (45_cbc.md R182, R184). -/
def execCbcEnc (s : State) : Answer := cbcChecks s <| transformData s (cbcEnc s.key s.iv)

/-- CBC_DEC: CBC-decrypt the DATA region in place (45_cbc.md R183, R184). -/
def execCbcDec (s : State) : Answer := cbcChecks s <| transformData s (cbcDec s.key s.iv)

end Sys2Proof.Machine
end

