-- ==== Sys2Proof/Machine/Cmac.lean ====
section
/-! DEFINITION. AES-CMAC and the command CMAC (42_cmac.md R150 to R154). -/

namespace Sys2Proof.Machine

/-- `dbl(X)`: multiply by x in GF(2^128), 0x87 on carry (42_cmac.md R150). -/
def dbl (x : Block) : Block := if x.getLsbD 127 then (x <<< 1) ^^^ 0x87#128 else x <<< 1

/-- `L`, and the subkeys `K1 = dbl(L)`, `K2 = dbl(K1)` (42_cmac.md R151). -/
def cmacL (key : Block) : Block := aesE key 0#128
def cmacK1 (key : Block) : Block := dbl (cmacL key)
def cmacK2 (key : Block) : Block := dbl (cmacK1 key)

/-- The message is a positive whole number of blocks, so no padding is applied (42_cmac.md R153). -/
def cmacFull (m : List Byte) : Bool := decide (0 < m.length ∧ m.length % 16 = 0)

/-- `nb`, the number of blocks of the message after padding (42_cmac.md R153). -/
def cmacBlocks (m : List Byte) : Nat := if cmacFull m then m.length / 16 else m.length / 16 + 1

/-- `last`, from what remains of the message after nb - 1 blocks (42_cmac.md R153). -/
def cmacLast (key : Block) (full : Bool) (rem : List Byte) : Block :=
  if full then blockOfBytes rem ^^^ cmacK1 key
  else blockOfBytes (rem ++ [0x80#8] ++ zeros (15 - rem.length)) ^^^ cmacK2 key

/-- The chain over the first n blocks of `m`, from X (42_cmac.md R153). -/
def cmacChain (key : Block) : Nat → Block → List Byte → Block
  | 0, x, _ => x
  | n + 1, x, m => cmacChain key n (aesE key (x ^^^ blockOfBytes (m.take 16))) (m.drop 16)

/-- `CMAC(K, M)` (42_cmac.md R153). -/
def cmac (key : Block) (m : List Byte) : Block :=
  aesE key (cmacChain key (cmacBlocks m - 1) 0#128 m ^^^
    cmacLast key (cmacFull m) (m.drop (16 * (cmacBlocks m - 1))))

/-- CMAC: the tag of the message assembled from segments 0..NSEG-1 (42_cmac.md R152, R154). -/
def execCmac (nseg : Nat) (s : State) : Answer :=
  if 4 < nseg then finish .illegalCommand s
  else
    requireKey s <| requireRegions (s.segments.take nseg) s <|
      readRegions s (s.segments.take nseg) fun xs => finish .ok (s.putTag (cmac s.key xs.flatten))

end Sys2Proof.Machine
end

