-- ==== Sys2Proof/Machine/Ctr.lean ====
section
/-! DEFINITION. Counter mode and the command CTR (43_ctr.md R160 to R162). -/

namespace Sys2Proof.Machine

/-- `inc(C)`: the counter block plus 1 modulo 2^128 (43_ctr.md R160). -/
def incCounter (c : Block) : Block := c + 1#128

/-- The first n keystream blocks xored into a string from counter block C (43_ctr.md R161). -/
def ctrBlocks (key : Block) : Nat → Block → List Byte → List Byte
  | 0, _, _ => []
  | n + 1, c, d => xorBytes (d.take 16) (bytesOfBlock (aesE key c)) ++ ctrBlocks key n (incCounter c) (d.drop 16)

/-- `CTRX(K, C0, D)` (43_ctr.md R161): `ceil(len(D)/16)` blocks. -/
def ctrx (key c0 : Block) (d : List Byte) : List Byte := ctrBlocks key ((d.length + 15) / 16) c0 d

/-- CTR: xor the keystream into the DATA region in place; IV keeps the initial counter block (43_ctr.md R162). -/
def execCtr (s : State) : Answer :=
  requireKey s <| requireRegions [s.data] s <| transformData s (ctrx s.key s.iv)

end Sys2Proof.Machine
end

