-- ==== Sys2Proof/Machine/Eax.lean ====
section
/-! DEFINITION. The EAX composition and the commands EAX_ENC and EAX_DEC (44_eax.md R170 to R173). -/

namespace Sys2Proof.Machine

/-- `P(t)`: sixteen bytes, all 0x00 but for byte `EAX_TWEAK_OFFSET`, which is t (44_eax.md R170). -/
def eaxPrefix (off : Config.EaxTweakOffset) (t : Byte) : List Byte :=
  match off with
  | .byte0 => t :: zeros 15
  | .byte15 => zeros 15 ++ [t]

/-- `CMAC(K, P(t) ‖ X)` (44_eax.md R171). -/
def eaxMac (off : Config.EaxTweakOffset) (key : Block) (t : Byte) (x : List Byte) : Block :=
  cmac key (eaxPrefix off t ++ x)

/-- `nonce_mac` (44_eax.md R171). -/
def eaxNonceMac (off : Config.EaxTweakOffset) (key : Block) (nonce : List Byte) : Block := eaxMac off key 0#8 nonce

/-- The tag of a nonce, a header and a ciphertext: the xor of the three MACs (44_eax.md R171). -/
def eaxTag (off : Config.EaxTweakOffset) (key : Block) (nonce header cipher : List Byte) : Block :=
  eaxNonceMac off key nonce ^^^ eaxMac off key 1#8 header ^^^ eaxMac off key 2#8 cipher

/-- The CTR step of EAX: the nonce MAC is the initial counter block (44_eax.md R171). -/
def eaxCtr (off : Config.EaxTweakOffset) (key : Block) (nonce x : List Byte) : List Byte :=
  ctrx key (eaxNonceMac off key nonce) x

/-- `EAXenc(K, N, Hd, D)` (44_eax.md R171). -/
def eaxEncrypt (off : Config.EaxTweakOffset) (key : Block) (nonce header d : List Byte) : List Byte × Block :=
  let c := eaxCtr off key nonce d
  (c, eaxTag off key nonce header c)

/-- `EAXdec(K, N, Hd, C, tag_in)`: none is the failure TagMismatch (44_eax.md R171). -/
def eaxDecrypt (off : Config.EaxTweakOffset) (key : Block) (nonce header c : List Byte) (tagIn : Block) :
    Option (List Byte) :=
  if eaxTag off key nonce header c = tagIn then some (eaxCtr off key nonce c) else none

/-- The conditions of both commands: the key; DATA, SEG0 and SEG1 in range (44_eax.md R172, R173). -/
def eaxChecks (s : State) (k : Answer) : Answer := requireKey s <| requireRegions [s.data, s.seg0, s.seg1] s k

/-- Nonce, header and data, read before anything is written (44_eax.md R172, R173, 20_memory.md R71). -/
def eaxInputs (s : State) (k : List Byte → List Byte → List Byte → Answer) : Answer :=
  readRegion s s.seg0 fun nonce => readRegion s s.seg1 fun header => readRegion s s.data fun d => k nonce header d

/-- EAX_ENC: encrypt the DATA region in place and put the tag in TAG (44_eax.md R172). -/
def execEaxEnc (s : State) : Answer :=
  eaxChecks s <| eaxInputs s fun nonce header d =>
    let r := eaxEncrypt s.params.eaxTweakOffset s.key nonce header d
    memWrite s s.data.addr.toNat r.1 fun s' => finish .ok (s'.putTag r.2)

/-- EAX_DEC: only if TAG matches, decrypt the DATA region in place; otherwise TagMismatch and nothing written
(44_eax.md R173, 60_exceptions.md R202). -/
def execEaxDec (s : State) : Answer :=
  eaxChecks s <| eaxInputs s fun nonce header c =>
    match eaxDecrypt s.params.eaxTweakOffset s.key nonce header c s.tag with
    | some d => memWrite s s.data.addr.toNat d (finish .ok)
    | none => finish .tagMismatch s

end Sys2Proof.Machine
end

