-- ==== Sys2Proof/Machine/Ecb.lean ====
section
/-! DEFINITION. The block cipher commands ECB_ENC and ECB_DEC (40_ecb.md R130, R131). -/

namespace Sys2Proof.Machine

/-- The conditions of both commands: the key, DATA_LEN = 16, the DATA region in range (40_ecb.md R130, R131). -/
def ecbChecks (s : State) (k : Answer) : Answer :=
  requireKey s <| requireForm (s.data.len == 16#32) s <| requireRegions [s.data] s k

/-- ECB_ENC: encrypt one 16-byte block in place (40_ecb.md R130). -/
def execEcbEnc (s : State) : Answer :=
  ecbChecks s <| transformData s fun x => bytesOfBlock (aesE s.key (blockOfBytes x))

/-- ECB_DEC: decrypt one 16-byte block in place (40_ecb.md R131). -/
def execEcbDec (s : State) : Answer :=
  ecbChecks s <| transformData s fun y => bytesOfBlock (aesDinv s.key (blockOfBytes y))

end Sys2Proof.Machine
end

