-- ==== Sys2Proof/Machine/KeyWrap.lean ====
section
/-! DEFINITION. The key-wrap commands KW_WRAP and KW_UNWRAP (41_keywrap.md R140 to R143). -/

namespace Sys2Proof.Machine

/-- The constant `rep(0xA6, 8)` (41_keywrap.md R141). -/
def kwInitial : Semi := 0xA6A6A6A6A6A6A6A6#64

/-- `T(t)` (41_keywrap.md R143). -/
def kwCounter (width : Config.KwTWidth) (t : Nat) : Semi :=
  match width with
  | .w64 => BitVec.ofNat 64 t
  | .w8 => BitVec.ofNat 64 (t % 256)

/-- One round of the wrap: the steps i, i+1, ... of round j with `base = n*j`, over A and R[i..n] (41_keywrap.md R141). -/
def wrapRound (width : Config.KwTWidth) (key : Block) (base : Nat) : Nat → Semi → List Semi → Semi × List Semi
  | _, a, [] => (a, [])
  | i, a, r :: rs =>
    let b := aesE key (joinSemis a r)
    let rest := wrapRound width key base (i + 1) (highSemi b ^^^ kwCounter width (base + i)) rs
    (rest.1, lowSemi b :: rest.2)

/-- One round of the unwrap: the steps n, ..., i+1, i of round j (41_keywrap.md R142). -/
def unwrapRound (width : Config.KwTWidth) (key : Block) (base : Nat) : Nat → Semi → List Semi → Semi × List Semi
  | _, a, [] => (a, [])
  | i, a, r :: rs =>
    let later := unwrapRound width key base (i + 1) a rs
    let b := aesDinv key (joinSemis (later.1 ^^^ kwCounter width (base + i)) r)
    (highSemi b, lowSemi b :: later.2)

/-- The rounds `js` of the wrap, in order, from A and R[1..n]. -/
def wrapRounds (width : Config.KwTWidth) (key : Block) (js : List Nat) (ar : Semi × List Semi) : Semi × List Semi :=
  js.foldl (fun ar j => wrapRound width key (ar.2.length * j) 1 ar.1 ar.2) ar

/-- The rounds `js` of the unwrap, in order. -/
def unwrapRounds (width : Config.KwTWidth) (key : Block) (js : List Nat) (ar : Semi × List Semi) : Semi × List Semi :=
  js.foldl (fun ar j => unwrapRound width key (ar.2.length * j) 1 ar.1 ar.2) ar

/-- A and R[1..n] after the six rounds of the wrap (41_keywrap.md R141). -/
def kwWrap (width : Config.KwTWidth) (key : Block) (rs : List Semi) : Semi × List Semi :=
  wrapRounds width key [0, 1, 2, 3, 4, 5] (kwInitial, rs)

/-- A and R[1..n] after the inverse schedule, j = 5..0 (41_keywrap.md R142). -/
def kwUnwrap (width : Config.KwTWidth) (key : Block) (a : Semi) (rs : List Semi) : Semi × List Semi :=
  unwrapRounds width key [5, 4, 3, 2, 1, 0] (a, rs)

/-- The first n 8-byte slots of a byte string (41_keywrap.md R140). -/
def slotsOfBytes : Nat → List Byte → List Semi
  | 0, _ => []
  | n + 1, xs => semiOfBytes (xs.take 8) :: slotsOfBytes n (xs.drop 8)

/-- Slots laid out at increasing addresses (41_keywrap.md R140). -/
def bytesOfSlots (rs : List Semi) : List Byte := rs.flatMap bytesOfSemi

/-- `DATA_LEN mod 8 = 0 and DATA_LEN >= 16` (30_encoding.md R97). -/
def kwForm (len : Word) : Bool := decide (len.toNat % 8 = 0 ∧ 16 ≤ len.toNat)

/-- The conditions of both commands (41_keywrap.md R141, R142). -/
def kwChecks (s : State) (k : Answer) : Answer :=
  requireKey s <| requireForm (kwForm s.data.len) s <| requireRegions [s.data] s k

/-- `n = DATA_LEN/8 - 1` (41_keywrap.md R140). -/
def kwCount (s : State) : Nat := s.data.len.toNat / 8 - 1

/-- KW_WRAP: wrap slots 1..n into slots 0..n; slot 0 is not read (41_keywrap.md R141, 30_encoding.md R97). -/
def execKwWrap (s : State) : Answer :=
  kwChecks s <|
    memRead s (s.data.addr.toNat + 8) (8 * kwCount s) fun p =>
      let ar := kwWrap s.params.kwTWidth s.key (slotsOfBytes (kwCount s) p)
      memWrite s s.data.addr.toNat (bytesOfSlots (ar.1 :: ar.2)) (finish .ok)

/-- KW_UNWRAP: unwrap slots 0..n; where A is not the constant, zero the region and report IntegrityMismatch
(41_keywrap.md R142, 60_exceptions.md R201). -/
def execKwUnwrap (s : State) : Answer :=
  kwChecks s <|
    memRead s s.data.addr.toNat 8 fun x =>
      memRead s (s.data.addr.toNat + 8) (8 * kwCount s) fun c =>
        let ar := kwUnwrap s.params.kwTWidth s.key (semiOfBytes x) (slotsOfBytes (kwCount s) c)
        if ar.1 = kwInitial then
          memWrite s s.data.addr.toNat (bytesOfSlots (ar.1 :: ar.2)) (finish .ok)
        else
          memWrite s s.data.addr.toNat (zeros s.data.len.toNat) (finish .integrityMismatch)

end Sys2Proof.Machine
end

