-- ==== Sys2Proof/Machine/System.lean ====
section
/-! DEFINITION. The system commands NOP and ZEROIZE (47_system.md R190, R191). -/

namespace Sys2Proof.Machine

/-- NOP: complete with success; no key, no length (47_system.md R190). -/
def execNop (s : State) : Answer := finish .ok s

/-- ZEROIZE: clear KEY, KEYW, IV, TAG and all of BUF (47_system.md R191). -/
def execZeroize (s : State) : Answer := finish .ok s.zeroized

end Sys2Proof.Machine
end

