-- ==== Sys2Proof/Machine/Dispatch.lean ====
section
/-! DEFINITION. `perform` and completion of a decoded command (30_encoding.md R102): one arm per row of the opcode table. -/

namespace Sys2Proof.Machine

def exec (i : Instr) (s : State) : Host.Outcome State Fault Refusal :=
  match i with
  | .nop => Sys2Proof.Machine.execNop s
  | .ecbEnc => Sys2Proof.Machine.execEcbEnc s
  | .ecbDec => Sys2Proof.Machine.execEcbDec s
  | .kwWrap => Sys2Proof.Machine.execKwWrap s
  | .kwUnwrap => Sys2Proof.Machine.execKwUnwrap s
  | .cmac nseg => Sys2Proof.Machine.execCmac nseg s
  | .ctr => Sys2Proof.Machine.execCtr s
  | .eaxEnc => Sys2Proof.Machine.execEaxEnc s
  | .eaxDec => Sys2Proof.Machine.execEaxDec s
  | .cbcEnc => Sys2Proof.Machine.execCbcEnc s
  | .cbcDec => Sys2Proof.Machine.execCbcDec s
  | .zeroize => Sys2Proof.Machine.execZeroize s

end Sys2Proof.Machine
end

