-- ==== Sys2Proof/Machine/Engine.lean ====
section
/-! DEFINITION. The engine's step `complete` and the events of the outside world (10_state.md R20, 30_encoding.md R102). -/

namespace Sys2Proof.Machine

/-- The command the engine performs: the word in CMD, decoded (10_state.md R24, 30_encoding.md R94). -/
def fetch (s : State) : Except Reject Instr := decode s.cmd

/-- `complete`, enabled when BUSY = 1: an Illegal word completes with IllegalCommand and no other change
(30_encoding.md R94, R102, 60_exceptions.md R205). With BUSY = 0 nothing happens (assumption 3). -/
def engineStep (s : State) : Answer :=
  if s.busy then
    match fetch s with
    | .ok i => exec i s
    | .error _ => finish .illegalCommand s
  else .next s

/-- One event of the outside world. -/
def takeEvent (s : State) : Event → Answer
  | .read off n => .next (respond (hostRead s off n))
  | .write off n v => .next (respond (hostWrite s off n v))
  | .hardReset => .next s.hardReset
  | .engine => engineStep s

/-- The state when its first event is taken off the queue. -/
def State.popEvent (s : State) (es : List Event) : State := { s with events := es }

end Sys2Proof.Machine
end

