-- ==== Sys2Proof/Machine/Step.lean ====
section
/-! DEFINITION. One step of the machine: the next event, or the engine when the host has nothing more to do. -/

namespace Sys2Proof.Machine

/-- One step (10_state.md R20): the first event of the queue, or with an empty queue the engine. -/
def step (s : State) : Host.Outcome State Fault Refusal :=
  match s.events with
  | [] => engineStep s
  | e :: es => takeEvent (s.popEvent es) e

/-- `s` with a command word accepted into CMD, as by the host's CMD write (30_encoding.md R102), and the engine next to
move: the very next step runs that word (assumption 13). -/
def State.withFetchWord (s : State) (nbits w : Nat) : State :=
  (s.accept (tableWord nbits w)).popEvent (.engine :: s.events)

end Sys2Proof.Machine
end

