-- ==== Sys2Proof/Safety.lean ====
section
/-! DEFINITION. What claims are stated in: a step that goes on, the invariant of the machine, the operand table of
30_encoding.md R97, and what a command leaves. -/

namespace Sys2Proof.Machine

/-- The machine goes on: neither a fault nor a refusal. -/
def GoesOn (o : Answer) : Prop := ∃ t, o = .next t

/-- What holds at reset and every step keeps. -/
structure Invariant (s : State) : Prop where
  /-- The instance is a legal one (00_scope.md R9). -/
  legal : s.params.Legal
  /-- BUF is in canonical form and inside BUF_BYTES (10_state.md R45). -/
  bufForm : s.buf.wf s.params.bufBytes
  /-- While BUSY = 1, DONE and ECODE are 0 (10_state.md R33, 30_encoding.md R102). -/
  busyFresh : s.busy = true → s.done = false ∧ s.ecode = .ok
  /-- A KEY word not written since the key was last cleared is zero (10_state.md R41, R50, 47_system.md R191). -/
  unwrittenKey : ∀ w : Fin 4, s.keyw.getLsbD w = false → wordOfBlock s.key w = 0#32

/-- The key is loaded: KEYW = 0b1111 (10_state.md R41). -/
abbrev State.keyLoaded (s : State) : Prop := s.keyw = 0xF#4

/-- The region lies inside BUF, on unbounded integers (20_memory.md R70). -/
abbrev State.fits (s : State) (r : Region) : Prop := r.addr.toNat + r.len.toNat ≤ s.params.bufBytes

/-- The bytes of a region. -/
def State.regionBytes (s : State) (r : Region) : List Byte := s.buf.readBytes r.addr.toNat r.len.toNat

/-- The column "needs key" of 30_encoding.md R97. -/
def needsKey : Instr → Bool
  | .nop | .zeroize => false
  | .ecbEnc | .ecbDec | .kwWrap | .kwUnwrap | .cmac _ | .ctr | .eaxEnc | .eaxDec | .cbcEnc | .cbcDec => true

/-- The column "condition on DATA_LEN" of 30_encoding.md R97. -/
def lengthForm (i : Instr) (len : Nat) : Prop :=
  match i with
  | .ecbEnc | .ecbDec => len = 16
  | .kwWrap | .kwUnwrap => len % 8 = 0 ∧ 16 ≤ len
  | .cbcEnc | .cbcDec => len % 16 = 0
  | .nop | .zeroize | .cmac _ | .ctr | .eaxEnc | .eaxDec => True

/-- The column "regions range-checked" of 30_encoding.md R97. -/
def usedRegions (i : Instr) (s : State) : List Region :=
  match i with
  | .nop | .zeroize => []
  | .ecbEnc | .ecbDec | .kwWrap | .kwUnwrap | .ctr | .cbcEnc | .cbcDec => [s.data]
  | .cmac nseg => [s.seg0, s.seg1, s.seg2, s.seg3].take nseg
  | .eaxEnc | .eaxDec => [s.data, s.seg0, s.seg1]

/-- The lengths and ranges of a command are as it needs them (30_encoding.md R97, 60_exceptions.md R203). -/
def WellLaid (i : Instr) (s : State) : Prop := lengthForm i s.data.len.toNat ∧ ∀ r ∈ usedRegions i s, s.fits r

/-- `s` after a command that completed with code `c` and touched nothing but STATUS (60_exceptions.md R209). -/
def completedWith (s : State) (c : ECode) : State := { s with ecode := c, busy := false, done := true }

/-- `t` is `s` after a command that completed with code `c`, wrote `xs` over the whole DATA region, and touched nothing
else: no other byte of BUF and no register but STATUS. -/
def DataBecomes (s t : State) (xs : List Byte) (c : ECode) : Prop :=
  xs.length = s.data.len.toNat ∧ t.regionBytes s.data = xs ∧
    (∀ a, a < s.data.addr.toNat ∨ s.data.addr.toNat + s.data.len.toNat ≤ a → t.buf.read a = s.buf.read a) ∧
    t = { s with buf := t.buf, ecode := c, busy := false, done := true }

/-- An AES state as the 16-byte string of 40_ecb.md R111. -/
def stateBytes (s : AesState) : List Byte := bytesOfBlock (blockOfAesState s)

/-- Byte i of that string. -/
def stateByte (s : AesState) (i : Nat) : Byte := (stateBytes s).getD i 0#8

/-- `m0•a0 xor m1•a1 xor m2•a2 xor m3•a3`, with the product of 40_ecb.md R112. -/
def rowTimes (ms : List Byte) (as : List Byte) : Byte :=
  (List.zipWith (fun m a => gfMul a m) ms as).foldl (· ^^^ ·) 0#8

/-- The four rows of a matrix applied to each column of the state in turn (40_ecb.md R118, R119). -/
def matrixOnColumns (rows : List (List Byte)) (s : AesState) : List Byte :=
  (List.range 4).flatMap fun c => rows.map fun ms =>
    rowTimes ms [stateByte s (4 * c), stateByte s (4 * c + 1), stateByte s (4 * c + 2), stateByte s (4 * c + 3)]

/-- `rk[r]`, r = 0..10 (40_ecb.md R121). -/
def roundKey (k : Block) (r : Nat) : AesState := (aesStateOfBlock k :: roundKeys k).getD r (aesStateOfBlock k)

/-- The pairs (j, i), j = 0..5 and i = 1..n, in the order of 41_keywrap.md R141. -/
def wrapSteps (n : Nat) : List (Nat × Nat) := (List.range 6).flatMap fun j => (List.range n).map fun i => (j, i + 1)

/-- The loop of 41_keywrap.md R141 over A and R[1..n], step by step with the index i; R[i] stands at position i - 1. -/
def wrapLoop (width : Config.KwTWidth) (key : Block) (n : Nat) (ar : Semi × List Semi) : Semi × List Semi :=
  (wrapSteps n).foldl (init := ar) fun ar ji =>
    let b := aesE key (joinSemis ar.1 (ar.2.getD (ji.2 - 1) 0#64))
    (highSemi b ^^^ kwCounter width (n * ji.1 + ji.2), ar.2.set (ji.2 - 1) (lowSemi b))

/-- The loop of 41_keywrap.md R142: the same steps in the opposite order, j = 5..0 and i = n..1. -/
def unwrapLoop (width : Config.KwTWidth) (key : Block) (n : Nat) (ar : Semi × List Semi) : Semi × List Semi :=
  (wrapSteps n).reverse.foldl (init := ar) fun ar ji =>
    let b := aesDinv key (joinSemis (ar.1 ^^^ kwCounter width (n * ji.1 + ji.2)) (ar.2.getD (ji.2 - 1) 0#64))
    (highSemi b, ar.2.set (ji.2 - 1) (lowSemi b))

/-- Block b of a byte string: its bytes 16b to 16b + 15. -/
def blockAt (xs : List Byte) (b : Nat) : Block := blockOfBytes ((xs.drop (16 * b)).take 16)

/-- Two regions share no byte. -/
abbrev Apart (r d : Region) : Prop :=
  r.addr.toNat + r.len.toNat ≤ d.addr.toNat ∨ d.addr.toNat + d.len.toNat ≤ r.addr.toNat

/-- A host write that is the soft reset (47_system.md R192). -/
def IsSoftReset (e : Event) : Prop := ∃ v : Word, e = .write 0x004 .w4 v ∧ v.getLsbD 1 = true

end Sys2Proof.Machine
end

