-- ==== Sys2Proof/Certificates/Slice0/Obligations.lean ====
section
/-! DEFINITION. The statements for the provers, in the order of the spec's files. A number in brackets after 'log' is a
row of notes/assumptions. -/

open Sys2Proof Sys2Proof.Machine

/-! ### Parameters, state and reset -/

/-- 00_scope.md R9: a parameter is a constant of one instance, no command or register changes it; nor does a reset. -/
def Obligations.StepKeepsParameters : Prop :=
  ∀ s t : State, step s = .next t → t.params = s.params

/-- 10_state.md R50. BUF: no byte has a known value; that an unspecified byte is a free value is the model's form of it
(log 5). -/
def Obligations.ResetLeavesSpecValues : Prop :=
  ∀ (s : State) (es : List Event), s.events = .hardReset :: es → ∃ t, step s = .next t ∧
    t = { State.reset with params := s.params, buf := t.buf, events := es, responses := s.responses } ∧
    t.statusWord = 0#32 ∧ t.ctrlWord = 0#32 ∧ t.irq = false ∧ (∀ a, t.buf.find a = none) ∧ t.buf.draws = s.buf.draws + 1

/-- 10_state.md R50 for the model's own first state: every register zero, STATUS reads 0, no key, no known byte of BUF. -/
def Obligations.FirstStateIsAResetState : Prop :=
  (State.reset.ie = false ∧ State.reset.busy = false ∧ State.reset.done = false ∧ State.reset.ecode = .ok ∧
    State.reset.hz = false ∧ State.reset.keyw = 0#4 ∧ State.reset.cmd = 0#32) ∧
  (State.reset.data = ⟨0#32, 0#32⟩ ∧ State.reset.seg0 = ⟨0#32, 0#32⟩ ∧ State.reset.seg1 = ⟨0#32, 0#32⟩ ∧
    State.reset.seg2 = ⟨0#32, 0#32⟩ ∧ State.reset.seg3 = ⟨0#32, 0#32⟩) ∧
  (State.reset.key = 0#128 ∧ State.reset.iv = 0#128 ∧ State.reset.tag = 0#128) ∧
  State.reset.statusWord = 0#32 ∧ State.reset.irq = false ∧ (∀ a, State.reset.buf.find a = none) ∧
  State.reset.params = Config.defaults

/-- The invariant holds at reset. -/
def Obligations.ResetMeetsInvariant : Prop := Invariant State.reset

/-- Every step keeps the invariant, from every state that meets it: BUF stays canonical and inside BUF_BYTES, a busy CORE
has DONE = 0 and ECODE = 0, and a KEY word not written since the key was last cleared is zero. -/
def Obligations.StepKeepsInvariant : Prop :=
  ∀ s t : State, Invariant s → step s = .next t → Invariant t

/-- No step, from any state at all, ends in a fault or a refusal: every range check comes before the access it guards
(20_memory.md R70, 60_exceptions.md R206). -/
def Obligations.StepAlwaysGoesOn : Prop := ∀ s : State, GoesOn (step s)

/-- 10_state.md R20: a command that has been started is eventually completed. That the host's queue is finite, and that
the engine moves when it is empty, is the model's form of fairness (log 3). Unless a reset is queued, the command
completes (DONE = 1). -/
def Obligations.StartedCommandCompletes : Prop :=
  ∀ s : State, s.busy = true → ∃ k t, k ≤ s.events.length + 1 ∧ Host.Core.run Sys2Proof.core k s = .next t ∧
    t.busy = false ∧ ((∀ e ∈ s.events, e ≠ .hardReset ∧ ¬ IsSoftReset e) → t.done = true)

/-! ### The host's accesses -/

/-- 10_state.md R31. -/
def Obligations.IdRegister : Prop :=
  ∀ (s : State) (v : Word), hostRead s 0x000 .w4 = (.value s.params.idValue, s) ∧ hostWrite s 0x000 .w4 v = (.ok, s) ∧
    Config.defaults.idValue = 0x41455301#32

/-- 10_state.md R32: reads, the two fields, the ignored bits, the reset that wins, IRQ following DONE when IE = 1, and the
reset value; in every state, BUSY or not. -/
def Obligations.CtrlRegister : Prop :=
  ∀ (s : State) (v : Word),
    (hostRead s 0x004 .w4 = (.value (if s.ie then 1#32 else 0#32), s) ∧ (s.ie = true → s.irq = s.done) ∧
      (s.ie = false → s.irq = false)) ∧
    (v.getLsbD 1 = false → hostWrite s 0x004 .w4 v = (.ok, { s with ie := v.getLsbD 0 })) ∧
    (v.getLsbD 1 = true → hostWrite s 0x004 .w4 v = (.ok, s.softReset) ∧ s.softReset.ie = false) ∧
    hostRead s.hardReset 0x004 .w4 = (.value 0#32, s.hardReset)

/-- 10_state.md R33: the fields of a read, bit by bit, its reset value and its example, and the effect of a write; a 1
written to bit 1 while BUSY = 1 changes nothing, in a state that meets the invariant. -/
def Obligations.StatusRegister : Prop :=
  ∀ (s : State) (v : Word),
    (∃ w : Word, hostRead s 0x008 .w4 = (.value w, s) ∧ w.getLsbD 0 = s.busy ∧ w.getLsbD 1 = s.done ∧
      (w.getLsbD 2 = true ↔ s.ecode ≠ .ok) ∧ (w.getLsbD 3 = true ↔ s.keyw = 0xF#4) ∧
      w.extractLsb' 4 4 = s.ecode.code ∧ w.getLsbD 8 = s.hz ∧ w.extractLsb' 9 3 = 0#3 ∧
      w.extractLsb' 12 4 = s.keyw ∧ w.extractLsb' 16 16 = 0#16) ∧
    (∃ t, hostWrite s 0x008 .w4 v = (.ok, t) ∧
      t = { s with done := if v.getLsbD 1 then false else s.done, hz := if v.getLsbD 8 then false else s.hz } ∧
      (Invariant s → s.busy = true → t.done = s.done)) ∧
    hostRead s.hardReset 0x008 .w4 = (.value 0#32, s.hardReset) ∧
    hostRead { s with busy := false, done := true, ecode := .ok, hz := false, keyw := 0xF#4 } 0x008 .w4 =
      (.value 0x0000F00A#32, { s with busy := false, done := true, ecode := .ok, hz := false, keyw := 0xF#4 })

/-- 10_state.md R34: an accepted CMD write, a refused one, the two reads, and the value after reset; for every word, legal
or not. -/
def Obligations.CmdRegister : Prop :=
  ∀ (s : State) (w : Word),
    (s.busy = false →
      hostWrite s 0x00C .w4 w = (.ok, { s with cmd := w, done := false, ecode := .ok, busy := true }) ∧
      hostRead s 0x00C .w4 = (.value s.cmd, s)) ∧
    (s.busy = true →
      hostWrite s 0x00C .w4 w = (.ok, { s with hz := true }) ∧
      hostRead s 0x00C .w4 = (.value 0#32, { s with hz := true })) ∧
    hostRead s.hardReset 0x00C .w4 = (.value 0#32, s.hardReset)

/-- 10_state.md R35, R36, 20_memory.md R63: the ten operand registers read and write as storage while BUSY = 0. -/
def Obligations.OperandRegisters : Prop :=
  ∀ (s : State) (v : Word), s.busy = false →
    (hostWrite s 0x010 .w4 v = (.ok, { s with data := ⟨v, s.data.len⟩ }) ∧ hostRead s 0x010 .w4 = (.value s.data.addr, s)) ∧
    (hostWrite s 0x014 .w4 v = (.ok, { s with data := ⟨s.data.addr, v⟩ }) ∧ hostRead s 0x014 .w4 = (.value s.data.len, s)) ∧
    (hostWrite s 0x018 .w4 v = (.ok, { s with seg0 := ⟨v, s.seg0.len⟩ }) ∧ hostRead s 0x018 .w4 = (.value s.seg0.addr, s)) ∧
    (hostWrite s 0x01C .w4 v = (.ok, { s with seg0 := ⟨s.seg0.addr, v⟩ }) ∧ hostRead s 0x01C .w4 = (.value s.seg0.len, s)) ∧
    (hostWrite s 0x020 .w4 v = (.ok, { s with seg1 := ⟨v, s.seg1.len⟩ }) ∧ hostRead s 0x020 .w4 = (.value s.seg1.addr, s)) ∧
    (hostWrite s 0x024 .w4 v = (.ok, { s with seg1 := ⟨s.seg1.addr, v⟩ }) ∧ hostRead s 0x024 .w4 = (.value s.seg1.len, s)) ∧
    (hostWrite s 0x028 .w4 v = (.ok, { s with seg2 := ⟨v, s.seg2.len⟩ }) ∧ hostRead s 0x028 .w4 = (.value s.seg2.addr, s)) ∧
    (hostWrite s 0x02C .w4 v = (.ok, { s with seg2 := ⟨s.seg2.addr, v⟩ }) ∧ hostRead s 0x02C .w4 = (.value s.seg2.len, s)) ∧
    (hostWrite s 0x030 .w4 v = (.ok, { s with seg3 := ⟨v, s.seg3.len⟩ }) ∧ hostRead s 0x030 .w4 = (.value s.seg3.addr, s)) ∧
    (hostWrite s 0x034 .w4 v = (.ok, { s with seg3 := ⟨s.seg3.addr, v⟩ }) ∧ hostRead s 0x034 .w4 = (.value s.seg3.len, s))

/-- 10_state.md R40: byte 4w + k of KEY, IV and TAG travels in bits `[8k+7 : 8k]` of word w at offset base + 4w; the other
bytes of the register, and everything else but KEYW, keep their values. IV and TAG read back; the example key of R40. -/
def Obligations.SixteenByteRegisters : Prop :=
  (∀ (s : State) (w : Fin 4) (v : Word), s.busy = false →
    (∃ t, hostWrite s (0x040 + 4 * w.val) .w4 v = (.ok, t) ∧ t = { s with key := t.key, keyw := t.keyw } ∧
      ∀ k < 16, byteOfBlock t.key k = if k / 4 = w.val then laneByte v (k % 4) else byteOfBlock s.key k) ∧
    (∃ t, hostWrite s (0x050 + 4 * w.val) .w4 v = (.ok, t) ∧ t = { s with iv := t.iv } ∧
      (∀ k < 16, byteOfBlock t.iv k = if k / 4 = w.val then laneByte v (k % 4) else byteOfBlock s.iv k) ∧
      hostRead t (0x050 + 4 * w.val) .w4 = (.value v, t)) ∧
    (∃ t, hostWrite s (0x060 + 4 * w.val) .w4 v = (.ok, t) ∧ t = { s with tag := t.tag } ∧
      (∀ k < 16, byteOfBlock t.tag k = if k / 4 = w.val then laneByte v (k % 4) else byteOfBlock s.tag k) ∧
      hostRead t (0x060 + 4 * w.val) .w4 = (.value v, t))) ∧
  setWordOfBlock (setWordOfBlock (setWordOfBlock (setWordOfBlock 0#128 0 0x03020100#32) 1 0x07060504#32) 2 0x0B0A0908#32) 3
    0x0F0E0D0C#32 = 0x000102030405060708090a0b0c0d0e0f#128

/-- 10_state.md R41: a read of a KEY word returns 0 and changes nothing; a write of KEY word w while BUSY = 0 replaces bytes
4w to 4w + 3 and sets KEYW bit w and no other; no step sets a KEYW bit in another way; a command that needs a key fails
unless all four bits are set; no command but ZEROIZE changes KEY. -/
def Obligations.KeyLoading : Prop :=
  (∀ (s : State) (w : Fin 4) (v : Word), s.busy = false →
    hostRead s (0x040 + 4 * w.val) .w4 = (.value 0#32, s) ∧
    ∃ t, hostWrite s (0x040 + 4 * w.val) .w4 v = (.ok, t) ∧
      (∀ k < 16, byteOfBlock t.key k = if k / 4 = w.val then laneByte v (k % 4) else byteOfBlock s.key k) ∧
      ∀ w' : Fin 4, t.keyw.getLsbD w' = (s.keyw.getLsbD w' || decide (w' = w))) ∧
  (∀ (s t : State) (w : Fin 4), step s = .next t → t.keyw.getLsbD w = true →
    s.keyw.getLsbD w = true ∨ (s.busy = false ∧ ∃ v es, s.events = .write (0x040 + 4 * w.val) .w4 v :: es)) ∧
  (∀ (i : Instr) (s : State), i.wellFormed = true → needsKey i = true → s.keyw ≠ 0b1111#4 →
    exec i s = .next (completedWith s .keyNotLoaded)) ∧
  (∀ (i : Instr) (s t : State), i ≠ .zeroize → exec i s = .next t → t.key = s.key)

/-- 20_memory.md R61, R63: in every idle state a read of the BUF window returns the little-endian value of BUF[a..a+n),
written or not and by whatever width it was written, and changes nothing; a write stores byte k of the value at address
a + k, changes no other byte and nothing else, and reads back as the low 8n bits of the value. -/
def Obligations.BufWindow : Prop :=
  ∀ (s : State) (a : Nat) (n : Width) (v : Word), s.params.Legal → s.busy = false →
    a + n.bytes ≤ s.params.bufBytes → a % n.bytes = 0 →
    (∃ w : Word, hostRead s (s.params.bufOff + a) n = (.value w, s) ∧
      w.toNat = ((List.range n.bytes).map fun k => 2 ^ (8 * k) * (s.buf.read (a + k)).toNat).sum) ∧
    ∃ t, hostWrite s (s.params.bufOff + a) n v = (.ok, t) ∧ t = { s with buf := t.buf } ∧
      (∀ k < n.bytes, t.buf.read (a + k) = laneByte v k) ∧
      (∀ b, b < a ∨ a + n.bytes ≤ b → t.buf.read b = s.buf.read b) ∧
      hostRead t (s.params.bufOff + a) n = (.value (BitVec.ofNat 32 (v.toNat % 2 ^ (8 * n.bytes))), t)

/-- 20_memory.md R62, R64, R65, R67: an access of a wrong width, a misaligned one, and one that touches a reserved offset or
runs past the BUF window get BusError and change nothing; every other access of a legal instance is answered, and a read
then has no side effect but the HZ of the busy gate. -/
def Obligations.BusErrorExactlyWhenMalformed : Prop :=
  ∀ (s : State) (off : Nat) (n : Width) (v : Word), s.params.Legal →
    if off % n.bytes ≠ 0 ∨ (off < 0x070 ∧ n ≠ .w4) ∨ (0x038 ≤ off ∧ off < 0x040) ∨
        (0x070 ≤ off ∧ off < s.params.bufOff) ∨ s.params.bufOff + s.params.bufBytes < off + n.bytes then
      hostRead s off n = (.busError, s) ∧ hostWrite s off n v = (.busError, s)
    else (∃ x, (hostRead s off n).1 = .value x) ∧ (hostWrite s off n v).1 = .ok ∧
      ((hostRead s off n).2 = s ∨ (s.busy = true ∧ (hostRead s off n).2 = { s with hz := true }))

/-- 20_memory.md R66: while BUSY = 1, ID, CTRL and STATUS (offsets 0x000 to 0x00B) behave as when idle; every other
well-formed, mapped access is refused with an ok response, a read returning 0, and sets HZ. -/
def Obligations.BusyGate : Prop :=
  ∀ (s : State) (off : Nat) (n : Width) (v : Word) (x : Target), s.busy = true → hostTarget s.params off n = some x →
    if off < 0x00C then
      hostRead s off n = (.value (readTarget s n x), s) ∧ hostWrite s off n v = (.ok, writeTarget s n v x)
    else hostRead s off n = (.value 0#32, { s with hz := true }) ∧ hostWrite s off n v = (.ok, { s with hz := true })

/-- 20_memory.md R78: between the CMD write and `complete` no host access changes what the command will see. The command
word, the operand registers, KEY, KEYW, IV, TAG and BUF stay as they are, and the CORE stays busy, unless the access is
the soft reset. -/
def Obligations.BusyKeepsWhatTheCommandSees : Prop :=
  ∀ (s : State) (e : Event) (es : List Event), s.busy = true → s.events = e :: es → e ≠ .engine → e ≠ .hardReset →
    ¬ IsSoftReset e →
    ∃ t, step s = .next t ∧
      t = { s with ie := t.ie, done := t.done, hz := t.hz, events := es, responses := t.responses }

/-- 10_state.md R41, 60_exceptions.md R213: KEY cannot be read back. Two states that differ only in KEY give the same
response to every event that is not the engine's, and still differ only in KEY. -/
def Obligations.KeyIsNotReadable : Prop :=
  ∀ (s : State) (k : Block) (e : Event) (es : List Event), s.events = e :: es → e ≠ .engine →
    ∃ t t', step s = .next t ∧ step { s with key := k } = .next t' ∧ t' = { t with key := t'.key }

/-- 47_system.md R192: the soft reset, with BUSY = 0 (BUF kept) and with BUSY = 1 (every byte of BUF unspecified: a free
value of a fresh draw, log 5). -/
def Obligations.SoftReset : Prop :=
  ∀ (s : State) (v : Word), v.getLsbD 1 = true →
    ∃ t, hostWrite s 0x004 .w4 v = (.ok, t) ∧
      t = { State.reset with params := s.params, buf := t.buf, events := s.events, responses := s.responses } ∧
      (s.busy = false → t.buf = s.buf) ∧
      (s.busy = true → (∀ a, t.buf.find a = none) ∧ t.buf.draws = s.buf.draws + 1)

/-- 10_state.md R46, 60_exceptions.md R207: IRQ is CTRL.IE and STATUS.DONE; every completion, with success or with a
failure, raises it when IE = 1; IE = 0 forces it low and leaves DONE alone; writing 1 to STATUS bit 1, an accepted CMD write
and both resets clear it; setting IE while DONE = 1 raises it at once. -/
def Obligations.InterruptLine : Prop :=
  (∀ s : State, s.irq = (s.ie && s.done)) ∧
  (∀ (i : Instr) (s t : State), exec i s = .next t → t.irq = s.ie) ∧
  (∀ (s : State) (v : Word), v.getLsbD 0 = false → v.getLsbD 1 = false →
    (hostWrite s 0x004 .w4 v).2.irq = false ∧ (hostWrite s 0x004 .w4 v).2.done = s.done) ∧
  (∀ (s : State) (v : Word), v.getLsbD 1 = true → (hostWrite s 0x008 .w4 v).2.irq = false) ∧
  (∀ (s : State) (w : Word), s.busy = false → (hostWrite s 0x00C .w4 w).2.irq = false) ∧
  (∀ (s : State) (v : Word), v.getLsbD 1 = true → (hostWrite s 0x004 .w4 v).2.irq = false) ∧
  (∀ s : State, s.hardReset.irq = false) ∧
  (∀ (s : State) (v : Word), v.getLsbD 0 = true → v.getLsbD 1 = false → (hostWrite s 0x004 .w4 v).2.irq = s.done)

/-! ### Encoding and the step -/

/-- 30_encoding.md R91, R92: the word of every well-formed command decodes to it, with NSEG at every value 0 to 4. -/
def Obligations.DecodeOfEncode : Prop :=
  ∀ i : Instr, i.wellFormed = true → decode (encode i) = .ok i

/-- 30_encoding.md R94: a word that decodes is the word of the command it decodes to, which is well formed. -/
def Obligations.EncodeOfDecode : Prop :=
  ∀ (w : Word) (i : Instr), decode w = .ok i → i.wellFormed = true ∧ encode i = w

/-- 30_encoding.md R92: the table of the twelve commands; these sixteen words are the legal ones, and no word decodes to
anything else. -/
def Obligations.SixteenLegalWords : Prop :=
  ∀ (w : Word) (i : Instr), decode w = .ok i ↔
    (w, i) ∈ [(0x00000000#32, Instr.nop), (0x00000010#32, .ecbEnc), (0x00000011#32, .ecbDec), (0x00000020#32, .kwWrap),
      (0x00000021#32, .kwUnwrap), (0x00000030#32, .cmac 0), (0x00000130#32, .cmac 1), (0x00000230#32, .cmac 2),
      (0x00000330#32, .cmac 3), (0x00000430#32, .cmac 4), (0x00000040#32, .ctr), (0x00000050#32, .eaxEnc),
      (0x00000051#32, .eaxDec), (0x00000060#32, .cbcEnc), (0x00000061#32, .cbcDec), (0x000000F0#32, .zeroize)]

/-- 30_encoding.md R92: a few words, one of each engine, written out from the table. -/
def Obligations.SampleWords : Prop :=
  decode 0x00000000#32 = .ok .nop ∧ decode 0x00000011#32 = .ok .ecbDec ∧ decode 0x00000020#32 = .ok .kwWrap ∧
    decode 0x00000330#32 = .ok (.cmac 3) ∧ decode 0x00000040#32 = .ok .ctr ∧ decode 0x00000051#32 = .ok .eaxDec ∧
    decode 0x00000060#32 = .ok .cbcEnc ∧ decode 0x000000F0#32 = .ok .zeroize

/-- 10_state.md R20, R24, 20_memory.md R62, 30_encoding.md R102, in the queue of log 3. With BUSY = 1, when the engine moves (its
turn comes up, or the queue is empty) and the word in CMD decodes to i, the step is `exec i` at that state with the turn
taken off; with BUSY = 0 the engine's turn changes nothing, so no command runs twice. A queued host access is that access at
the state without it, its answer recorded (log 4); a queued hardware reset is that reset (log 8). -/
def Obligations.StepRunsTheDecodedCommand : Prop :=
  ∀ (s : State) (es : List Event),
    (∀ i, s.busy = true → decode s.cmd = .ok i →
      (s.events = [] → step s = exec i s) ∧ (s.events = .engine :: es → step s = exec i { s with events := es })) ∧
    (s.busy = false → engineStep s = .next s ∧
      (s.events = [] → step s = .next s) ∧ (s.events = .engine :: es → step s = .next { s with events := es })) ∧
    (∀ off n, s.events = .read off n :: es →
      let r := hostRead { s with events := es } off n
      step s = .next { r.2 with events := es, responses := r.1 :: s.responses }) ∧
    (∀ off n v, s.events = .write off n v :: es →
      let r := hostWrite { s with events := es } off n v
      step s = .next { r.2 with events := es, responses := r.1 :: s.responses }) ∧
    (s.events = .hardReset :: es → step s = .next ({ s with events := es } : State).hardReset)

/-- The model's placing of a command word (log 13): the very next step runs the word that was placed, in the state an
accepted CMD write leaves. -/
def Obligations.PlacedWordRunsNext : Prop :=
  ∀ (s : State) (nbits w : Nat) (i : Instr), decodeTableWord nbits w = some i →
    step (s.withFetchWord nbits w) =
      exec i { s with cmd := tableWord nbits w, done := false, ecode := .ok, busy := true }

/-- 60_exceptions.md R205: when the engine moves, a word that is not one of the sixteen legal words completes with
IllegalCommand, changes nothing but STATUS, and reads back from CMD. -/
def Obligations.IllegalWordCompletes : Prop :=
  ∀ (s : State) (es : List Event) (e : Reject), s.busy = true → decode s.cmd = .error e →
    (s.events = [] → step s = .next (completedWith s .illegalCommand)) ∧
    (s.events = .engine :: es → step s = .next (completedWith { s with events := es } .illegalCommand)) ∧
    hostRead (completedWith s .illegalCommand) 0x00C .w4 = (.value s.cmd, completedWith s .illegalCommand)

/-! ### Failures -/

/-- 60_exceptions.md R204: every command except NOP and ZEROIZE, with the key not loaded, completes with KeyNotLoaded,
whatever its lengths, and changes nothing but STATUS. -/
def Obligations.KeyNotLoadedFailure : Prop :=
  ∀ (i : Instr) (s : State), i.wellFormed = true → needsKey i = true → ¬ s.keyLoaded →
    exec i s = .next (completedWith s .keyNotLoaded)

/-- 60_exceptions.md R203: MalformedLength is reported exactly when the command gets past the key check and a length or a
range is not as it needs, and then nothing but STATUS changes. -/
def Obligations.MalformedLengthFailure : Prop :=
  (∀ (i : Instr) (s : State), i.wellFormed = true → (needsKey i = true → s.keyLoaded) → ¬ WellLaid i s →
    exec i s = .next (completedWith s .malformedLength)) ∧
  (∀ (i : Instr) (s t : State), exec i s = .next t → t.ecode = .malformedLength → ¬ WellLaid i s)

/-- 60_exceptions.md R208: which code a started command reports, in the order of priority: IllegalCommand, KeyNotLoaded,
MalformedLength, then IntegrityMismatch for KW_UNWRAP only or TagMismatch for EAX_DEC only, or success. -/
def Obligations.CodePriority : Prop :=
  ∀ (s : State) (es : List Event), s.busy = true → (s.events = [] ∨ s.events = .engine :: es) → ∃ t, step s = .next t ∧
    (∀ e, decode s.cmd = .error e → t.ecode = .illegalCommand) ∧
    (∀ i, decode s.cmd = .ok i →
      ((needsKey i = true ∧ ¬ s.keyLoaded) → t.ecode = .keyNotLoaded) ∧
      (¬ (needsKey i = true ∧ ¬ s.keyLoaded) → ¬ WellLaid i s → t.ecode = .malformedLength) ∧
      (¬ (needsKey i = true ∧ ¬ s.keyLoaded) → WellLaid i s →
        t.ecode = .ok ∨ (i = .kwUnwrap ∧ t.ecode = .integrityMismatch) ∨ (i = .eaxDec ∧ t.ecode = .tagMismatch)))

/-- 60_exceptions.md R209: a failed command other than an IntegrityMismatch leaves everything but STATUS exactly as it was;
every completion clears BUSY and sets DONE. -/
def Obligations.FailuresArePrecise : Prop :=
  ∀ (i : Instr) (s t : State), exec i s = .next t → t.busy = false ∧ t.done = true ∧
    (t.ecode ≠ .ok → t.ecode ≠ .integrityMismatch → t = completedWith s t.ecode) ∧
    (t.ecode = .integrityMismatch → DataBecomes s t (zeros s.data.len.toNat) .integrityMismatch)

/-- What no command writes, over all commands (10_state.md R23, R41, R42, R43, 30_encoding.md R97): CTRL, CMD, HZ, the
operand registers; KEY, KEYW and IV but for ZEROIZE; TAG but for CMAC, EAX_ENC and ZEROIZE; no byte of BUF for NOP and CMAC,
and none outside the DATA region but for ZEROIZE. -/
def Obligations.CommandFrame : Prop :=
  ∀ (i : Instr) (s t : State), exec i s = .next t →
    t = { s with ecode := t.ecode, busy := false, done := true, key := t.key, keyw := t.keyw, iv := t.iv, tag := t.tag, buf := t.buf } ∧
    (i ≠ .zeroize → t.key = s.key ∧ t.keyw = s.keyw ∧ t.iv = s.iv) ∧
    (i ≠ .zeroize → i ≠ .eaxEnc → (∀ n, i ≠ .cmac n) → t.tag = s.tag) ∧
    (i = .nop ∨ (∃ n, i = .cmac n) → t.buf = s.buf) ∧
    (i ≠ .zeroize → ∀ a, a < s.data.addr.toNat ∨ s.data.addr.toNat + s.data.len.toNat ≤ a → t.buf.read a = s.buf.read a)

/-! ### The block cipher -/

/-- 40_ecb.md R112: xtime, the general product, its constants and its checks. R113, R114: the tables follow the formula (b is the inverse
of a in GF(2^8), or 0) and undo each other. -/
def Obligations.SboxFollowsItsFormula : Prop :=
  (∀ a : Byte, (xtime a).toNat = if a.toNat < 128 then 2 * a.toNat else (2 * a.toNat - 256) ^^^ 0x1B) ∧
  (∀ a b : Byte, gfMul a b =
    ((List.range 8).map fun i => if b.getLsbD i then xtime^[i] a else 0#8).foldl (· ^^^ ·) 0#8) ∧
  (∀ a : Byte, gfMul a 2#8 = xtime a ∧ gfMul a 3#8 = xtime a ^^^ a ∧ gfMul a 9#8 = xtime^[3] a ^^^ a ∧
    gfMul a 11#8 = xtime^[3] a ^^^ xtime a ^^^ a ∧ gfMul a 13#8 = xtime^[3] a ^^^ xtime^[2] a ^^^ a ∧
    gfMul a 14#8 = xtime^[3] a ^^^ xtime^[2] a ^^^ xtime a) ∧
  (xtime 0x57#8 = 0xAE#8 ∧ xtime 0xAE#8 = 0x47#8 ∧ gfMul 0x57#8 0x13#8 = 0xFE#8 ∧ gfMul 0x57#8 0x83#8 = 0xC1#8) ∧
  ∀ a : Byte, (∃ b : Byte, (a = 0#8 → b = 0#8) ∧ (a ≠ 0#8 → gfMul a b = 1#8) ∧
      sbox a = b ^^^ b.rotateLeft 1 ^^^ b.rotateLeft 2 ^^^ b.rotateLeft 3 ^^^ b.rotateLeft 4 ^^^ 0x63#8) ∧
    invSbox (sbox a) = a ∧ sbox (invSbox a) = a

/-- 40_ecb.md R121: the round keys are those of the word-by-word loop, i = 4..43, with RotWord, SubWord and the xor of
RCON[i/4] = xtime^(i/4 - 1)(0x01) into the first byte written out. -/
def Obligations.KeyScheduleFollowsTheLoop : Prop :=
  ∀ k : Block, ∃ w : Nat → Column,
    (∀ i < 4, w i =
      ⟨byteOfBlock k (4 * i), byteOfBlock k (4 * i + 1), byteOfBlock k (4 * i + 2), byteOfBlock k (4 * i + 3)⟩) ∧
    (∀ i, 4 ≤ i → i < 44 →
      let p := w (i - 1)
      let t : Column := if i % 4 = 0 then
        ⟨sbox p.b1 ^^^ xtime^[i / 4 - 1] 0x01#8, sbox p.b2, sbox p.b3, sbox p.b0⟩ else p
      w i = ⟨(w (i - 4)).b0 ^^^ t.b0, (w (i - 4)).b1 ^^^ t.b1, (w (i - 4)).b2 ^^^ t.b2, (w (i - 4)).b3 ^^^ t.b3⟩) ∧
    (∀ r < 11, (aesStateOfBlock k :: roundKeys k)[r]? = some ⟨w (4 * r), w (4 * r + 1), w (4 * r + 2), w (4 * r + 3)⟩)

/-- 40_ecb.md R111, R115 to R120, R122 to R124. The state is the sixteen bytes column by column, and each step is, on those
bytes, what its rule writes: the tables, the two byte permutations, the two matrices, the xor. `E` and `Dinv` are the rules'
loops over the round keys rk[0..10] (R121: `KeyScheduleFollowsTheLoop`). For every key they undo each other; the values of
the rules' own checks and of the all-zero key. -/
def Obligations.CipherIsAPermutation : Prop :=
  (∀ s : AesState, stateBytes s =
    [s.c0.b0, s.c0.b1, s.c0.b2, s.c0.b3, s.c1.b0, s.c1.b1, s.c1.b2, s.c1.b3,
     s.c2.b0, s.c2.b1, s.c2.b2, s.c2.b3, s.c3.b0, s.c3.b1, s.c3.b2, s.c3.b3]) ∧
  (∀ x : Block, blockOfAesState (aesStateOfBlock x) = x) ∧
  (∀ s : AesState, stateBytes (subBytes s) = (stateBytes s).map sbox ∧
    stateBytes (invSubBytes s) = (stateBytes s).map invSbox) ∧
  (∀ s : AesState,
    stateBytes (shiftRows s) = [0, 5, 10, 15, 4, 9, 14, 3, 8, 13, 2, 7, 12, 1, 6, 11].map (stateByte s) ∧
    stateBytes (invShiftRows s) = [0, 13, 10, 7, 4, 1, 14, 11, 8, 5, 2, 15, 12, 9, 6, 3].map (stateByte s)) ∧
  (∀ s : AesState,
    stateBytes (mixColumns s) = matrixOnColumns [[2, 3, 1, 1], [1, 2, 3, 1], [1, 1, 2, 3], [3, 1, 1, 2]] s ∧
    stateBytes (invMixColumns s) = matrixOnColumns [[14, 11, 13, 9], [9, 14, 11, 13], [13, 9, 14, 11], [11, 13, 9, 14]] s ∧
    invMixColumns (mixColumns s) = s) ∧
  mixColumn ⟨0xd4#8, 0xbf#8, 0x5d#8, 0x30#8⟩ = ⟨0x04#8, 0x66#8, 0x81#8, 0xe5#8⟩ ∧
  (∀ s rk : AesState, blockOfAesState (addRoundKey s rk) = blockOfAesState s ^^^ blockOfAesState rk ∧
    addRoundKey (addRoundKey s rk) rk = s) ∧
  (∀ k x : Block, aesE k x = blockOfAesState (addRoundKey (shiftRows (subBytes
    ([1, 2, 3, 4, 5, 6, 7, 8, 9].foldl (fun s r => addRoundKey (mixColumns (shiftRows (subBytes s))) (roundKey k r))
      (addRoundKey (aesStateOfBlock x) (roundKey k 0))))) (roundKey k 10))) ∧
  (∀ k y : Block, aesDinv k y = blockOfAesState (addRoundKey (invSubBytes (invShiftRows
    ([9, 8, 7, 6, 5, 4, 3, 2, 1].foldl
      (fun s r => invMixColumns (addRoundKey (invSubBytes (invShiftRows s)) (roundKey k r)))
      (addRoundKey (aesStateOfBlock y) (roundKey k 10))))) (roundKey k 0))) ∧
  (∀ k x : Block, aesDinv k (aesE k x) = x ∧ aesE k (aesDinv k x) = x) ∧
  aesE 0x2b7e151628aed2a6abf7158809cf4f3c#128 0x3243f6a8885a308d313198a2e0370734#128 =
    0x3925841d02dc09fbdc118597196a0b32#128 ∧
  aesE 0#128 0#128 = 0x66e94bd4ef8a2c3b884cfa59ca342b2e#128 ∧
  aesDinv 0#128 0#128 = 0x140f0f1011b5223d79587717ffd9ec3a#128

/-- 40_ecb.md R130: ECB_ENC, in every state. -/
def Obligations.EcbEncCommand : Prop :=
  decode 0x00000010#32 = .ok .ecbEnc ∧ ∀ s : State,
    (¬ s.keyLoaded → exec .ecbEnc s = .next (completedWith s .keyNotLoaded)) ∧
    (s.keyLoaded → ¬ (s.data.len.toNat = 16 ∧ s.fits s.data) → exec .ecbEnc s = .next (completedWith s .malformedLength)) ∧
    (s.keyLoaded → s.data.len.toNat = 16 → s.fits s.data → ∃ t, exec .ecbEnc s = .next t ∧
      DataBecomes s t (bytesOfBlock (aesE s.key (blockOfBytes (s.regionBytes s.data)))) .ok)

/-- 40_ecb.md R131: ECB_DEC, in every state; after a successful ECB_ENC it restores BUF. -/
def Obligations.EcbDecCommand : Prop :=
  decode 0x00000011#32 = .ok .ecbDec ∧ ∀ s : State,
    (¬ s.keyLoaded → exec .ecbDec s = .next (completedWith s .keyNotLoaded)) ∧
    (s.keyLoaded → ¬ (s.data.len.toNat = 16 ∧ s.fits s.data) → exec .ecbDec s = .next (completedWith s .malformedLength)) ∧
    (s.keyLoaded → s.data.len.toNat = 16 → s.fits s.data → ∃ t, exec .ecbDec s = .next t ∧
      DataBecomes s t (bytesOfBlock (aesDinv s.key (blockOfBytes (s.regionBytes s.data)))) .ok) ∧
    (∀ t u, exec .ecbEnc s = .next t → exec .ecbDec t = .next u → u.ecode = .ok → ∀ a, u.buf.read a = s.buf.read a)

/-! ### Key wrap -/

/-- 41_keywrap.md R143: T(t) byte by byte, and the two widths agree for t up to 255, so that a wrap of at most 42 registers
does not depend on the parameter; they differ at t = 256. -/
def Obligations.StepCounterWidths : Prop :=
  (∀ t : Nat, bytesOfSemi (kwCounter .w64 t) = beBytes 8 t ∧ bytesOfSemi (kwCounter .w8 t) = beBytes 8 (t % 256)) ∧
  (∀ t ≤ 255, kwCounter .w8 t = kwCounter .w64 t) ∧ kwCounter .w8 256 ≠ kwCounter .w64 256 ∧
  (∀ (key : Block) (rs : List Semi), rs.length ≤ 42 → kwWrap .w8 key rs = kwWrap .w64 key rs)

/-- 41_keywrap.md R141, R142: the wrap is the rule's loop over the step indices j and i, from the constant A; the unwrap is
the inverse loop. -/
def Obligations.KeyWrapFollowsIndexedLoops : Prop :=
  ∀ (width : Config.KwTWidth) (key : Block) (a : Semi) (rs : List Semi),
    kwWrap width key rs = wrapLoop width key rs.length (0xA6A6A6A6A6A6A6A6#64, rs) ∧
    kwUnwrap width key a rs = unwrapLoop width key rs.length (a, rs)

/-- 41_keywrap.md R141: KW_WRAP, in every state; slot 0 is not read. -/
def Obligations.KwWrapCommand : Prop :=
  decode 0x00000020#32 = .ok .kwWrap ∧ ∀ s : State,
    (¬ s.keyLoaded → exec .kwWrap s = .next (completedWith s .keyNotLoaded)) ∧
    (s.keyLoaded → ¬ (s.data.len.toNat % 8 = 0 ∧ 16 ≤ s.data.len.toNat ∧ s.fits s.data) →
      exec .kwWrap s = .next (completedWith s .malformedLength)) ∧
    (s.keyLoaded → s.data.len.toNat % 8 = 0 → 16 ≤ s.data.len.toNat → s.fits s.data →
      ∃ t a rs, exec .kwWrap s = .next t ∧
        wrapLoop s.params.kwTWidth s.key (s.data.len.toNat / 8 - 1) (0xA6A6A6A6A6A6A6A6#64,
          slotsOfBytes (s.data.len.toNat / 8 - 1)
            (s.buf.readBytes (s.data.addr.toNat + 8) (s.data.len.toNat - 8))) = (a, rs) ∧
        DataBecomes s t (bytesOfSlots (a :: rs)) .ok)

/-- 41_keywrap.md R142, 60_exceptions.md R201: KW_UNWRAP, in every state: where A comes out as the constant the region holds
it and R[1..n], otherwise the region is zeroed and the code is IntegrityMismatch. -/
def Obligations.KwUnwrapCommand : Prop :=
  decode 0x00000021#32 = .ok .kwUnwrap ∧ ∀ s : State,
    (¬ s.keyLoaded → exec .kwUnwrap s = .next (completedWith s .keyNotLoaded)) ∧
    (s.keyLoaded → ¬ (s.data.len.toNat % 8 = 0 ∧ 16 ≤ s.data.len.toNat ∧ s.fits s.data) →
      exec .kwUnwrap s = .next (completedWith s .malformedLength)) ∧
    (s.keyLoaded → s.data.len.toNat % 8 = 0 → 16 ≤ s.data.len.toNat → s.fits s.data →
      ∃ t a rs, exec .kwUnwrap s = .next t ∧
        unwrapLoop s.params.kwTWidth s.key (s.data.len.toNat / 8 - 1)
          (semiOfBytes (s.buf.readBytes s.data.addr.toNat 8),
            slotsOfBytes (s.data.len.toNat / 8 - 1)
              (s.buf.readBytes (s.data.addr.toNat + 8) (s.data.len.toNat - 8))) = (a, rs) ∧
        (a = 0xA6A6A6A6A6A6A6A6#64 → DataBecomes s t (rep 0xA6#8 8 ++ bytesOfSlots rs) .ok) ∧
        (a ≠ 0xA6A6A6A6A6A6A6A6#64 → DataBecomes s t (zeros s.data.len.toNat) .integrityMismatch))

/-- 41_keywrap.md R144: KW_UNWRAP after KW_WRAP with the same key succeeds, whatever the key, the size and the plaintext,
and restores slots 1..n. -/
def Obligations.UnwrapUndoesWrap : Prop :=
  ∀ s : State, s.keyLoaded → s.data.len.toNat % 8 = 0 → 16 ≤ s.data.len.toNat → s.fits s.data →
    ∃ t u, exec .kwWrap s = .next t ∧ exec .kwUnwrap t = .next u ∧ u.ecode = .ok ∧
      u.buf.readBytes s.data.addr.toNat 8 = rep 0xA6#8 8 ∧
      u.buf.readBytes (s.data.addr.toNat + 8) (s.data.len.toNat - 8) =
        s.buf.readBytes (s.data.addr.toNat + 8) (s.data.len.toNat - 8)

/-! ### CMAC -/

/-- 42_cmac.md R150: doubling as the rule computes it, on integers, with its two boundary examples. -/
def Obligations.DoublingFollowsItsRule : Prop :=
  (∀ x : Block, (dbl x).toNat = if x.toNat / 2 ^ 127 = 1 then 2 * x.toNat % 2 ^ 128 ^^^ 0x87 else 2 * x.toNat % 2 ^ 128) ∧
  dbl 1#128 = 2#128 ∧ dbl 0x80000000000000000000000000000000#128 = 0x87#128

/-- 42_cmac.md R153: CMAC as the rule's indexed loop over 16-byte blocks, for a message of any length. -/
def Obligations.CmacFollowsItsRule : Prop :=
  ∀ (key : Block) (m : List Byte),
    let k1 := dbl (aesE key 0#128)
    let k2 := dbl (dbl (aesE key 0#128))
    if 0 < m.length ∧ m.length % 16 = 0 then
      cmac key m = aesE key ((List.range (m.length / 16 - 1)).foldl (fun x i => aesE key (x ^^^ blockAt m i)) 0#128 ^^^
        (blockAt m (m.length / 16 - 1) ^^^ k1))
    else
      cmac key m = aesE key ((List.range (m.length / 16)).foldl (fun x i => aesE key (x ^^^ blockAt m i)) 0#128 ^^^
        (blockOfBytes (m.drop (16 * (m.length / 16)) ++ 0x80#8 :: zeros (15 - m.length % 16)) ^^^ k2))

/-- 42_cmac.md R152, R154: CMAC, in every state and for every NSEG. -/
def Obligations.CmacCommand : Prop :=
  (∀ nseg ≤ 4, decode (BitVec.ofNat 32 (0x00000030 + 0x100 * nseg)) = .ok (.cmac nseg)) ∧ ∀ (nseg : Nat) (s : State),
    (4 < nseg → exec (.cmac nseg) s = .next (completedWith s .illegalCommand)) ∧
    (nseg ≤ 4 → ¬ s.keyLoaded → exec (.cmac nseg) s = .next (completedWith s .keyNotLoaded)) ∧
    (nseg ≤ 4 → s.keyLoaded → ¬ (∀ r ∈ [s.seg0, s.seg1, s.seg2, s.seg3].take nseg, s.fits r) →
      exec (.cmac nseg) s = .next (completedWith s .malformedLength)) ∧
    (nseg ≤ 4 → s.keyLoaded → (∀ r ∈ [s.seg0, s.seg1, s.seg2, s.seg3].take nseg, s.fits r) →
      exec (.cmac nseg) s = .next { s with
        tag := cmac s.key (([s.seg0, s.seg1, s.seg2, s.seg3].take nseg).flatMap s.regionBytes),
        ecode := .ok, busy := false, done := true })

/-! ### Counter mode -/

/-- 43_ctr.md R160: the increment is BE_16((int_be(C) + 1) mod 2^128), and all ones wraps to zero. -/
def Obligations.CounterIncrement : Prop :=
  (∀ c : List Byte, c.length = 16 →
    bytesOfBlock (incCounter (blockOfBytes c)) = beBytes 16 ((intBe c + 1) % 2 ^ 128)) ∧
  incCounter 0xffffffffffffffffffffffffffffffff#128 = 0#128

/-- 43_ctr.md R161: byte i of the output is byte i of the data xored with byte i mod 16 of the keystream block
E(K, C0 + i div 16); the length is kept, and a second application restores the data. -/
def Obligations.CtrxFollowsItsRule : Prop :=
  ∀ (key c0 : Block) (d : List Byte),
    (ctrx key c0 d).length = d.length ∧
    (∀ i (h : i < d.length),
      (ctrx key c0 d)[i]? = some (d[i] ^^^ byteOfBlock (aesE key (c0 + BitVec.ofNat 128 (i / 16))) (i % 16))) ∧
    ctrx key c0 (ctrx key c0 d) = d

/-- 43_ctr.md R162: CTR, in every state; IV keeps the initial counter block. -/
def Obligations.CtrCommand : Prop :=
  decode 0x00000040#32 = .ok .ctr ∧ ∀ s : State,
    (¬ s.keyLoaded → exec .ctr s = .next (completedWith s .keyNotLoaded)) ∧
    (s.keyLoaded → ¬ s.fits s.data → exec .ctr s = .next (completedWith s .malformedLength)) ∧
    (s.keyLoaded → s.fits s.data → ∃ t, exec .ctr s = .next t ∧
      DataBecomes s t (ctrx s.key s.iv (s.regionBytes s.data)) .ok ∧ t.iv = s.iv)

/-! ### EAX -/

/-- 44_eax.md R170: the prefix block under both values of the parameter; the nonce MAC and the ciphertext do not depend on
it. -/
def Obligations.EaxPrefixBlock : Prop :=
  (∀ t : Byte, eaxPrefix .byte0 t = [t, 0, 0, 0, 0, 0, 0, 0, 0, 0, 0, 0, 0, 0, 0, 0] ∧
    eaxPrefix .byte15 t = [0, 0, 0, 0, 0, 0, 0, 0, 0, 0, 0, 0, 0, 0, 0, t]) ∧
  (∀ (key : Block) (nonce d : List Byte),
    eaxNonceMac .byte0 key nonce = eaxNonceMac .byte15 key nonce ∧ eaxCtr .byte0 key nonce d = eaxCtr .byte15 key nonce d)

/-- 44_eax.md R171, R172: EAX_ENC, in every state: nonce, header and data are read first, then the region takes the
ciphertext and TAG the xor of the three MACs. -/
def Obligations.EaxEncCommand : Prop :=
  decode 0x00000050#32 = .ok .eaxEnc ∧ ∀ s : State,
    (¬ s.keyLoaded → exec .eaxEnc s = .next (completedWith s .keyNotLoaded)) ∧
    (s.keyLoaded → ¬ (s.fits s.data ∧ s.fits s.seg0 ∧ s.fits s.seg1) →
      exec .eaxEnc s = .next (completedWith s .malformedLength)) ∧
    (s.keyLoaded → s.fits s.data → s.fits s.seg0 → s.fits s.seg1 →
      ∃ (t : State) (nonceMac headerMac dataMac : Block) (c : List Byte), exec .eaxEnc s = .next t ∧
        nonceMac = cmac s.key (eaxPrefix s.params.eaxTweakOffset 0#8 ++ s.regionBytes s.seg0) ∧
        headerMac = cmac s.key (eaxPrefix s.params.eaxTweakOffset 1#8 ++ s.regionBytes s.seg1) ∧
        c = ctrx s.key nonceMac (s.regionBytes s.data) ∧
        dataMac = cmac s.key (eaxPrefix s.params.eaxTweakOffset 2#8 ++ c) ∧
        DataBecomes { s with tag := nonceMac ^^^ headerMac ^^^ dataMac } t c .ok)

/-- 44_eax.md R171, R173, 60_exceptions.md R202: EAX_DEC, in every state: TAG is compared with the tag of the received
ciphertext; on a match the region is decrypted, otherwise TagMismatch and nothing but STATUS changes. -/
def Obligations.EaxDecCommand : Prop :=
  decode 0x00000051#32 = .ok .eaxDec ∧ ∀ s : State,
    (¬ s.keyLoaded → exec .eaxDec s = .next (completedWith s .keyNotLoaded)) ∧
    (s.keyLoaded → ¬ (s.fits s.data ∧ s.fits s.seg0 ∧ s.fits s.seg1) →
      exec .eaxDec s = .next (completedWith s .malformedLength)) ∧
    (s.keyLoaded → s.fits s.data → s.fits s.seg0 → s.fits s.seg1 →
      ∃ nonceMac headerMac dataMac : Block,
        nonceMac = cmac s.key (eaxPrefix s.params.eaxTweakOffset 0#8 ++ s.regionBytes s.seg0) ∧
        headerMac = cmac s.key (eaxPrefix s.params.eaxTweakOffset 1#8 ++ s.regionBytes s.seg1) ∧
        dataMac = cmac s.key (eaxPrefix s.params.eaxTweakOffset 2#8 ++ s.regionBytes s.data) ∧
        (nonceMac ^^^ headerMac ^^^ dataMac = s.tag → ∃ t, exec .eaxDec s = .next t ∧
          DataBecomes s t (ctrx s.key nonceMac (s.regionBytes s.data)) .ok) ∧
        (nonceMac ^^^ headerMac ^^^ dataMac ≠ s.tag → exec .eaxDec s = .next (completedWith s .tagMismatch)))

/-- 44_eax.md R171: EAX_DEC after EAX_ENC, with nonce and header outside the DATA region, succeeds and restores every byte
of BUF. -/
def Obligations.EaxDecUndoesEaxEnc : Prop :=
  ∀ s : State, s.keyLoaded → s.fits s.data → s.fits s.seg0 → s.fits s.seg1 → Apart s.seg0 s.data → Apart s.seg1 s.data →
    ∃ t u, exec .eaxEnc s = .next t ∧ exec .eaxDec t = .next u ∧ u.ecode = .ok ∧ u.tag = t.tag ∧
      ∀ a, u.buf.read a = s.buf.read a

/-! ### CBC -/

/-- 45_cbc.md R180: block b of the ciphertext is E of block b of the data xored with the ciphertext block before it, the
initial chaining value for b = 0. -/
def Obligations.CbcEncFollowsItsRule : Prop :=
  ∀ (key v : Block) (d : List Byte), d.length % 16 = 0 →
    (cbcEnc key v d).length = d.length ∧
    ∀ b < d.length / 16, blockAt (cbcEnc key v d) b =
      aesE key (blockAt d b ^^^ if b = 0 then v else blockAt (cbcEnc key v d) (b - 1))

/-- 45_cbc.md R181: block b of the plaintext is Dinv of block b of the ciphertext xored with the ciphertext block before it;
decryption undoes encryption. -/
def Obligations.CbcDecFollowsItsRule : Prop :=
  ∀ (key v : Block) (c : List Byte), c.length % 16 = 0 →
    (cbcDec key v c).length = c.length ∧
    (∀ b < c.length / 16, blockAt (cbcDec key v c) b =
      aesDinv key (blockAt c b) ^^^ if b = 0 then v else blockAt c (b - 1)) ∧
    cbcDec key v (cbcEnc key v c) = c

/-- 45_cbc.md R182: CBC_ENC, in every state; IV keeps the initial chaining value. -/
def Obligations.CbcEncCommand : Prop :=
  decode 0x00000060#32 = .ok .cbcEnc ∧ ∀ s : State,
    (¬ s.keyLoaded → exec .cbcEnc s = .next (completedWith s .keyNotLoaded)) ∧
    (s.keyLoaded → ¬ (s.data.len.toNat % 16 = 0 ∧ s.fits s.data) →
      exec .cbcEnc s = .next (completedWith s .malformedLength)) ∧
    (s.keyLoaded → s.data.len.toNat % 16 = 0 → s.fits s.data → ∃ t, exec .cbcEnc s = .next t ∧
      DataBecomes s t (cbcEnc s.key s.iv (s.regionBytes s.data)) .ok ∧ t.iv = s.iv)

/-- 45_cbc.md R183: CBC_DEC, in every state. -/
def Obligations.CbcDecCommand : Prop :=
  decode 0x00000061#32 = .ok .cbcDec ∧ ∀ s : State,
    (¬ s.keyLoaded → exec .cbcDec s = .next (completedWith s .keyNotLoaded)) ∧
    (s.keyLoaded → ¬ (s.data.len.toNat % 16 = 0 ∧ s.fits s.data) →
      exec .cbcDec s = .next (completedWith s .malformedLength)) ∧
    (s.keyLoaded → s.data.len.toNat % 16 = 0 → s.fits s.data → ∃ t, exec .cbcDec s = .next t ∧
      DataBecomes s t (cbcDec s.key s.iv (s.regionBytes s.data)) .ok ∧ t.iv = s.iv)

/-- Decryption undoes encryption at the level of commands (40_ecb.md R131, 43_ctr.md R161, 45_cbc.md R181): ECB_DEC after
ECB_ENC, CBC_DEC after CBC_ENC, and CTR after CTR succeed and restore every byte of BUF. -/
def Obligations.DecryptUndoesEncrypt : Prop :=
  ∀ (s : State) (e d : Instr), (e, d) ∈ [(Instr.ecbEnc, Instr.ecbDec), (.cbcEnc, .cbcDec), (.ctr, .ctr)] →
    s.keyLoaded → WellLaid e s →
    ∃ t u, exec e s = .next t ∧ exec d t = .next u ∧ u.ecode = .ok ∧ ∀ a, u.buf.read a = s.buf.read a

/-! ### System commands -/

/-- 47_system.md R190: NOP changes STATUS only, with any key and any lengths. -/
def Obligations.NopCommand : Prop :=
  decode 0x00000000#32 = .ok .nop ∧ ∀ s : State, exec .nop s = .next { s with ecode := .ok, busy := false, done := true }

/-- 47_system.md R191: ZEROIZE clears KEY, KEYW, IV, TAG and every byte of BUF, and writes nothing else but STATUS; a keyed
command after it fails with KeyNotLoaded. -/
def Obligations.ZeroizeCommand : Prop :=
  decode 0x000000F0#32 = .ok .zeroize ∧ ∀ s : State, ∃ t, exec .zeroize s = .next t ∧
    t = { s with key := 0#128, keyw := 0#4, iv := 0#128, tag := 0#128, buf := t.buf, ecode := .ok, busy := false, done := true } ∧
    (∀ a < s.params.bufBytes, t.buf.read a = 0#8) ∧ t.keyv = false ∧
    (∀ i : Instr, i.wellFormed = true → needsKey i = true → exec i t = .next (completedWith t .keyNotLoaded))
end

