-- ==== Sys2Proof/Laws/Bytes.lean ====
section
/-! SUPPORT. Byte strings and integers: big-endian conversion both ways, xor, and the words of a 16-byte register. -/

namespace Sys2Proof

theorem intBe_lt (xs : List Byte) : intBe xs < 256 ^ xs.length := by
  induction xs with
  | nil => simp [intBe]
  | cons x xs ih =>
    simp only [intBe, List.length_cons, Nat.pow_succ]
    have hx : x.toNat + 1 ≤ 256 := x.isLt
    calc 256 ^ xs.length * x.toNat + intBe xs
        < 256 ^ xs.length * (x.toNat + 1) := by rw [Nat.mul_add]; omega
      _ ≤ 256 ^ xs.length * 256 := Nat.mul_le_mul_left _ hx

@[simp] theorem beBytes_length (n v : Nat) : (beBytes n v).length = n := by
  induction n with
  | zero => rfl
  | succ n ih => simp [beBytes, ih]

theorem beBytes_mod (n k v : Nat) : beBytes n (v % 256 ^ (n + k)) = beBytes n v := by
  induction n generalizing k with
  | zero => rfl
  | succ n ih =>
    simp only [beBytes]
    congr 1
    · apply BitVec.eq_of_toNat_eq
      simp only [BitVec.toNat_ofNat]
      rw [show n + 1 + k = n + (k + 1) by omega, Nat.pow_add, Nat.mod_mul_right_div_self, Nat.pow_succ]
      exact Nat.mod_mul_left_mod _ _ _
    · rw [show n + 1 + k = n + (k + 1) by omega]
      exact ih (k + 1)

/-- `int_be(BE_n(v))` is v modulo 2^(8n). -/
theorem intBe_beBytes (n v : Nat) : intBe (beBytes n v) = v % 256 ^ n := by
  induction n with
  | zero => simp [beBytes, intBe, Nat.mod_one]
  | succ n ih =>
    simp only [beBytes, intBe, beBytes_length, ih, BitVec.toNat_ofNat]
    rw [show 256 ^ (n + 1) = 256 ^ n * 256 from pow_succ 256 n, Nat.mod_mul, Nat.add_comm]

/-- `BE_n(int_be(X))` is X, for X of n bytes. -/
theorem beBytes_intBe (xs : List Byte) : beBytes xs.length (intBe xs) = xs := by
  induction xs with
  | nil => rfl
  | cons x xs ih =>
    have hlt := intBe_lt xs
    have hpos : 0 < 256 ^ xs.length := Nat.pow_pos (by decide)
    simp only [List.length_cons, beBytes, intBe]
    congr 1
    · rw [Nat.mul_add_div hpos, Nat.div_eq_of_lt hlt, Nat.add_zero]
      simp
    · have := beBytes_mod xs.length 0 (256 ^ xs.length * x.toNat + intBe xs)
      rw [Nat.add_zero, Nat.mul_add_mod, Nat.mod_eq_of_lt hlt, ih] at this
      exact this.symm

@[simp] theorem bytesOfBlock_length (b : Block) : (bytesOfBlock b).length = 16 := beBytes_length _ _

@[simp] theorem bytesOfSemi_length (r : Semi) : (bytesOfSemi r).length = 8 := beBytes_length _ _

@[simp] theorem blockOfBytes_bytesOfBlock (b : Block) : blockOfBytes (bytesOfBlock b) = b := by
  apply BitVec.eq_of_toNat_eq
  simp only [blockOfBytes, bytesOfBlock, intBe_beBytes, BitVec.toNat_ofNat]
  have := b.isLt
  omega

@[simp] theorem semiOfBytes_bytesOfSemi (r : Semi) : semiOfBytes (bytesOfSemi r) = r := by
  apply BitVec.eq_of_toNat_eq
  simp only [semiOfBytes, bytesOfSemi, intBe_beBytes, BitVec.toNat_ofNat]
  have := r.isLt
  omega

theorem bytesOfBlock_blockOfBytes {xs : List Byte} (h : xs.length = 16) : bytesOfBlock (blockOfBytes xs) = xs := by
  have hlt := intBe_lt xs
  rw [h] at hlt
  have hb := beBytes_intBe xs
  rw [h] at hb
  rw [bytesOfBlock, blockOfBytes, BitVec.toNat_ofNat, Nat.mod_eq_of_lt (by omega), hb]

theorem bytesOfSemi_semiOfBytes {xs : List Byte} (h : xs.length = 8) : bytesOfSemi (semiOfBytes xs) = xs := by
  have hlt := intBe_lt xs
  rw [h] at hlt
  have hb := beBytes_intBe xs
  rw [h] at hb
  rw [bytesOfSemi, semiOfBytes, BitVec.toNat_ofNat, Nat.mod_eq_of_lt (by omega), hb]

@[simp] theorem zeros_length (n : Nat) : (zeros n).length = n := by simp [zeros, rep]

@[simp] theorem xorBytes_length (xs ys : List Byte) : (xorBytes xs ys).length = min xs.length ys.length := by
  simp [xorBytes]

/-- The same keystream twice cancels. -/
theorem xorBytes_cancel {xs ys : List Byte} (h : xs.length ≤ ys.length) : xorBytes (xorBytes xs ys) ys = xs := by
  apply List.ext_getElem
  · simp [h]
  · intro i _ _
    simp [xorBytes]

theorem joinSemis_toNat (a r : Semi) : (joinSemis a r).toNat = 2 ^ 64 * a.toNat + r.toNat := by
  have h := BitVec.toNat_append a r
  rw [← Nat.shiftLeft_add_eq_or_of_lt r.isLt, Nat.shiftLeft_eq, Nat.mul_comm] at h
  exact h

theorem joinBytes_toNat (x0 x1 x2 x3 : Byte) :
    (joinBytes x0 x1 x2 x3).toNat = 2 ^ 24 * x0.toNat + 2 ^ 16 * x1.toNat + 2 ^ 8 * x2.toNat + x3.toNat := by
  have h1 := BitVec.toNat_append x0 x1
  have h2 := BitVec.toNat_append (x0 ++ x1) x2
  have h3 := BitVec.toNat_append (x0 ++ x1 ++ x2) x3
  rw [← Nat.shiftLeft_add_eq_or_of_lt (BitVec.isLt _), Nat.shiftLeft_eq] at h1 h2 h3
  have h : (joinBytes x0 x1 x2 x3).toNat = (x0 ++ x1 ++ x2 ++ x3).toNat := rfl
  omega

theorem joinWords_toNat (w0 w1 w2 w3 : Word) :
    (joinWords w0 w1 w2 w3).toNat = 2 ^ 96 * w0.toNat + 2 ^ 64 * w1.toNat + 2 ^ 32 * w2.toNat + w3.toNat := by
  have h1 := BitVec.toNat_append w0 w1
  have h2 := BitVec.toNat_append (w0 ++ w1) w2
  have h3 := BitVec.toNat_append (w0 ++ w1 ++ w2) w3
  rw [← Nat.shiftLeft_add_eq_or_of_lt (BitVec.isLt _), Nat.shiftLeft_eq] at h1 h2 h3
  have h : (joinWords w0 w1 w2 w3).toNat = (w0 ++ w1 ++ w2 ++ w3).toNat := rfl
  omega

theorem laneByte_toNat (v : Word) (k : Nat) : (laneByte v k).toNat = v.toNat / 2 ^ (8 * k) % 256 := by
  simp [laneByte, BitVec.extractLsb'_toNat, Nat.shiftRight_eq_div_pow]

theorem quarter_toNat (b : Block) (w : Nat) : (quarter b w).toNat = b.toNat / 2 ^ (32 * (3 - w)) % 2 ^ 32 := by
  simp [quarter, BitVec.extractLsb'_toNat, Nat.shiftRight_eq_div_pow]

theorem byteOfBlock_toNat (b : Block) (k : Nat) : (byteOfBlock b k).toNat = b.toNat / 2 ^ (8 * (15 - k)) % 256 := by
  simp [byteOfBlock, BitVec.extractLsb'_toNat, Nat.shiftRight_eq_div_pow]

@[simp] theorem highSemi_joinSemis (a r : Semi) : highSemi (joinSemis a r) = a := by
  apply BitVec.eq_of_toNat_eq
  have hr := r.isLt
  have ha := a.isLt
  rw [highSemi, BitVec.extractLsb'_toNat, joinSemis_toNat, Nat.shiftRight_eq_div_pow]
  omega

@[simp] theorem lowSemi_joinSemis (a r : Semi) : lowSemi (joinSemis a r) = r := by
  apply BitVec.eq_of_toNat_eq
  have hr := r.isLt
  rw [lowSemi, BitVec.extractLsb'_toNat, joinSemis_toNat, Nat.shiftRight_eq_div_pow]
  omega

@[simp] theorem joinSemis_high_low (b : Block) : joinSemis (highSemi b) (lowSemi b) = b := by
  apply BitVec.eq_of_toNat_eq
  have hb := b.isLt
  rw [joinSemis_toNat, highSemi, lowSemi, BitVec.extractLsb'_toNat, BitVec.extractLsb'_toNat, Nat.shiftRight_eq_div_pow,
    Nat.shiftRight_eq_div_pow]
  omega

@[simp] theorem laneByte_joinBytes (x0 x1 x2 x3 : Byte) :
    laneByte (joinBytes x0 x1 x2 x3) 3 = x0 ∧ laneByte (joinBytes x0 x1 x2 x3) 2 = x1 ∧
      laneByte (joinBytes x0 x1 x2 x3) 1 = x2 ∧ laneByte (joinBytes x0 x1 x2 x3) 0 = x3 := by
  have h0 := x0.isLt
  have h1 := x1.isLt
  have h2 := x2.isLt
  have h3 := x3.isLt
  refine ⟨?_, ?_, ?_, ?_⟩ <;> apply BitVec.eq_of_toNat_eq <;> rw [laneByte_toNat, joinBytes_toNat] <;> omega

@[simp] theorem joinBytes_lanes (v : Word) :
    joinBytes (laneByte v 3) (laneByte v 2) (laneByte v 1) (laneByte v 0) = v := by
  apply BitVec.eq_of_toNat_eq
  have hv := v.isLt
  rw [joinBytes_toNat, laneByte_toNat, laneByte_toNat, laneByte_toNat, laneByte_toNat]
  omega

@[simp] theorem quarter_joinWords (w0 w1 w2 w3 : Word) :
    quarter (joinWords w0 w1 w2 w3) 0 = w0 ∧ quarter (joinWords w0 w1 w2 w3) 1 = w1 ∧
      quarter (joinWords w0 w1 w2 w3) 2 = w2 ∧ quarter (joinWords w0 w1 w2 w3) 3 = w3 := by
  have h0 := w0.isLt
  have h1 := w1.isLt
  have h2 := w2.isLt
  have h3 := w3.isLt
  refine ⟨?_, ?_, ?_, ?_⟩ <;> apply BitVec.eq_of_toNat_eq <;> rw [quarter_toNat, joinWords_toNat] <;> omega

@[simp] theorem joinWords_quarters (b : Block) :
    joinWords (quarter b 0) (quarter b 1) (quarter b 2) (quarter b 3) = b := by
  apply BitVec.eq_of_toNat_eq
  have hb := b.isLt
  rw [joinWords_toNat, quarter_toNat, quarter_toNat, quarter_toNat, quarter_toNat]
  omega

@[simp] theorem swapBytes_swapBytes (v : Word) : swapBytes (swapBytes v) = v := by
  simp [swapBytes]

@[simp] theorem laneByte_swapBytes (v : Word) :
    laneByte (swapBytes v) 3 = laneByte v 0 ∧ laneByte (swapBytes v) 2 = laneByte v 1 ∧
      laneByte (swapBytes v) 1 = laneByte v 2 ∧ laneByte (swapBytes v) 0 = laneByte v 3 := by
  simp [swapBytes]

/-- A written word of a 16-byte register reads back. -/
@[simp] theorem wordOfBlock_setWordOfBlock (b : Block) (w : Fin 4) (v : Word) : wordOfBlock (setWordOfBlock b w v) w = v := by
  match w with
  | 0 | 1 | 2 | 3 => simp [wordOfBlock, setWordOfBlock]

/-- The other words of a 16-byte register keep their values. -/
theorem wordOfBlock_setWordOfBlock_of_ne (b : Block) {w w' : Fin 4} (v : Word) (h : w' ≠ w) :
    wordOfBlock (setWordOfBlock b w v) w' = wordOfBlock b w' := by
  match w, w' with
  | 0, 1 | 0, 2 | 0, 3 | 1, 0 | 1, 2 | 1, 3 | 2, 0 | 2, 1 | 2, 3 | 3, 0 | 3, 1 | 3, 2 => simp [wordOfBlock, setWordOfBlock]
  | 0, 0 | 1, 1 | 2, 2 | 3, 3 => exact absurd rfl h

@[simp] theorem wordOfBlock_zero (w : Fin 4) : wordOfBlock 0#128 w = 0#32 := by
  match w with
  | 0 | 1 | 2 | 3 => decide

end Sys2Proof
end

