-- ==== Sys2Proof/Laws/Memory.lean ====
section
/-! SUPPORT. BUF: a read after a write, and the canonical form that every operation keeps. -/

namespace Sys2Proof.Machine

theorem lookup_filter_of_keep {p : Nat → Bool} {a : Nat} (h : p a = true) (l : List Host.Cell) :
    (l.filter fun c => p c.1).lookup a = l.lookup a := by
  induction l with
  | nil => rfl
  | cons c l ih =>
    obtain ⟨k, v⟩ := c
    by_cases hk : a = k
    · subst hk; simp [h]
    · have hne : (a == k) = false := by simpa using hk
      by_cases hp : p k <;> simp [hp, List.lookup_cons, hne, ih]

theorem lookup_filter_of_drop {p : Nat → Bool} {a : Nat} (h : p a = false) (l : List Host.Cell) :
    (l.filter fun c => p c.1).lookup a = none := by
  rw [List.lookup_eq_none_iff]
  intro c hc
  have hp : p c.1 = true := (List.mem_filter.1 hc).2
  rw [bne_iff_ne]
  rintro rfl
  simp [h] at hp

/-- Every cell of a written string stands inside the string and differs from the fill. -/
theorem mem_cellsOf {u : Option Byte} {a : Nat} {xs : List Byte} {c : Host.Cell} (h : c ∈ cellsOf u a xs) :
    a ≤ c.1 ∧ c.1 < a + xs.length ∧ u ≠ some c.2 := by
  induction xs generalizing a with
  | nil => simp [cellsOf] at h
  | cons x xs ih =>
    have step : c ∈ cellsOf u (a + 1) xs → a ≤ c.1 ∧ c.1 < a + (x :: xs).length ∧ u ≠ some c.2 := fun hm => by
      have := ih hm
      simp only [List.length_cons]; exact ⟨by omega, by omega, this.2.2⟩
    unfold cellsOf at h
    split at h
    · exact step h
    · rename_i hx
      rcases List.mem_cons.1 h with rfl | hm
      · exact ⟨Nat.le_refl _, by simp, hx⟩
      · exact step hm

theorem cellsOf_sorted (u : Option Byte) (a : Nat) (xs : List Byte) :
    (cellsOf u a xs).Pairwise fun c d => c.1 < d.1 := by
  induction xs generalizing a with
  | nil => exact List.Pairwise.nil
  | cons x xs ih =>
    unfold cellsOf
    split
    · exact ih _
    · exact List.pairwise_cons.2 ⟨fun c hc => (mem_cellsOf hc).1, ih _⟩

theorem lookup_cellsOf_outside {u : Option Byte} {a b : Nat} {xs : List Byte} (h : b < a ∨ a + xs.length ≤ b) :
    (cellsOf u a xs).lookup b = none := by
  rw [List.lookup_eq_none_iff]
  intro c hc
  have := mem_cellsOf hc
  rw [bne_iff_ne]
  omega

theorem lookup_cellsOf_inside {u : Option Byte} {a k : Nat} {xs : List Byte} (h : k < xs.length) :
    (cellsOf u a xs).lookup (a + k) = if u = some xs[k] then none else some xs[k] := by
  induction xs generalizing a k with
  | nil => simp at h
  | cons x xs ih =>
    cases k with
    | zero =>
      by_cases hx : u = some x
      · simp [cellsOf, hx, lookup_cellsOf_outside]
      · simp [cellsOf, hx]
    | succ k =>
      have hk : k < xs.length := by simpa using h
      have hn : (a + 1 + k == a) = false := by simp only [beq_eq_false_iff_ne]; omega
      have hrec := ih (a := a + 1) hk
      rw [show a + (k + 1) = a + 1 + k by omega]
      by_cases hx : u = some x
      · simpa [cellsOf, hx] using hrec
      · simpa [cellsOf, hx, List.lookup_cons, hn] using hrec

@[simp] theorem Memory.write_unlisted (m : Memory) (a : Nat) (xs : List Byte) : (m.write a xs).unlisted = m.unlisted := rfl

@[simp] theorem Memory.write_draws (m : Memory) (a : Nat) (xs : List Byte) : (m.write a xs).draws = m.draws := rfl

theorem Memory.find_write_outside {m : Memory} {a b : Nat} {xs : List Byte} (h : b < a ∨ a + xs.length ≤ b) :
    (m.write a xs).find b = m.find b := by
  have hl : (m.write a xs).cells.lookup b = m.cells.lookup b := by
    simp only [Memory.write, List.lookup_append, lookup_cellsOf_outside h, Option.or_none]
    rcases h with h | h
    · rw [lookup_filter_of_keep (p := fun n => decide (n < a)) (by simpa using h),
        lookup_filter_of_drop (p := fun n => decide (a + xs.length ≤ n)) (by simp; omega), Option.or_none]
    · rw [lookup_filter_of_drop (p := fun n => decide (n < a)) (by simp; omega),
        lookup_filter_of_keep (p := fun n => decide (a + xs.length ≤ n)) (by simpa using h), Option.none_or]
  simp only [Memory.find, hl, Memory.write_unlisted]

theorem Memory.find_write_inside {m : Memory} {a k : Nat} {xs : List Byte} (h : k < xs.length) :
    (m.write a xs).find (a + k) = some xs[k] := by
  have hl : (m.write a xs).cells.lookup (a + k) = if m.unlisted = some xs[k] then none else some xs[k] := by
    simp only [Memory.write, List.lookup_append, lookup_cellsOf_inside h]
    rw [lookup_filter_of_drop (p := fun n => decide (n < a)) (by simp),
      lookup_filter_of_drop (p := fun n => decide (a + xs.length ≤ n)) (by simp; omega), Option.or_none, Option.none_or]
  simp only [Memory.find, hl, Memory.write_unlisted]
  by_cases hu : m.unlisted = some xs[k] <;> simp [hu]

/-- A byte outside the written string reads as before. -/
theorem Memory.read_write_outside {m : Memory} {a b : Nat} {xs : List Byte} (h : b < a ∨ a + xs.length ≤ b) :
    (m.write a xs).read b = m.read b := by
  simp [Memory.read, Memory.find_write_outside h]

/-- A byte of the written string reads as written. -/
theorem Memory.read_write_inside {m : Memory} {a k : Nat} {xs : List Byte} (h : k < xs.length) :
    (m.write a xs).read (a + k) = xs[k] := by
  simp [Memory.read, Memory.find_write_inside h]

@[simp] theorem Memory.readBytes_length (m : Memory) (a n : Nat) : (m.readBytes a n).length = n := by
  induction n generalizing a with
  | zero => rfl
  | succ n ih => simp [Memory.readBytes, ih]

theorem Memory.readBytes_getElem {m : Memory} {a n k : Nat} (h : k < (m.readBytes a n).length) :
    (m.readBytes a n)[k] = m.read (a + k) := by
  induction n generalizing a k with
  | zero => simp at h
  | succ n ih =>
    cases k with
    | zero => rfl
    | succ k => simp only [Memory.readBytes, List.getElem_cons_succ]; rw [ih]; congr 1; omega

/-- Two memories that read alike on a range give the same byte string. -/
theorem Memory.readBytes_congr {m m' : Memory} {a n : Nat} (h : ∀ k < n, m.read (a + k) = m'.read (a + k)) :
    m.readBytes a n = m'.readBytes a n := by
  apply List.ext_getElem
  · simp
  · intro k hk _
    simp only [Memory.readBytes_getElem]
    exact h k (by simpa using hk)

/-- A written string reads back. -/
theorem Memory.readBytes_write_same (m : Memory) (a : Nat) (xs : List Byte) :
    (m.write a xs).readBytes a xs.length = xs := by
  apply List.ext_getElem
  · simp
  · intro k _ hk
    rw [Memory.readBytes_getElem, Memory.read_write_inside hk]

/-- A string outside the written one reads as before. -/
theorem Memory.readBytes_write_outside {m : Memory} {a b n : Nat} {xs : List Byte}
    (h : b + n ≤ a ∨ a + xs.length ≤ b) : (m.write a xs).readBytes b n = m.readBytes b n :=
  Memory.readBytes_congr fun k hk => Memory.read_write_outside (by omega)

@[simp] theorem Memory.find_clear (m : Memory) (a : Nat) : m.clear.find a = some 0#8 := rfl

/-- After ZEROIZE every byte is zero. -/
@[simp] theorem Memory.read_clear (m : Memory) (a : Nat) : m.clear.read a = 0#8 := rfl

@[simp] theorem Memory.find_redraw (m : Memory) (a : Nat) : m.redraw.find a = none := rfl

/-- After a redraw every byte is the free value of the new draw. -/
@[simp] theorem Memory.read_redraw (m : Memory) (a : Nat) : m.redraw.read a = Config.freeByte (m.draws + 1) a := rfl

/-- A write inside BUF keeps the canonical form. -/
theorem Memory.write_wf {size : Nat} {m : Memory} {a : Nat} {xs : List Byte} (hm : m.wf size)
    (h : a + xs.length ≤ size) : (m.write a xs).wf size := by
  obtain ⟨hs, hc⟩ := hm
  refine ⟨?_, ?_⟩
  · simp only [Memory.write, List.append_assoc, List.pairwise_append]
    refine ⟨hs.filter _, ⟨cellsOf_sorted _ _ _, hs.filter _, ?_⟩, ?_⟩
    · intro c hc d hd
      have := mem_cellsOf hc
      simp only [List.mem_filter, decide_eq_true_eq] at hd
      omega
    · intro c hc d hd
      simp only [List.mem_filter, decide_eq_true_eq, List.mem_append] at hc hd
      rcases hd with hd | hd
      · have := mem_cellsOf hd; omega
      · omega
  · intro c hmem
    simp only [Memory.write, List.mem_append, List.mem_filter] at hmem
    rcases hmem with (⟨hmem, _⟩ | hmem) | ⟨hmem, _⟩
    · exact hc c hmem
    · have := mem_cellsOf hmem; exact ⟨by omega, this.2.2⟩
    · exact hc c hmem

theorem Memory.clear_wf (size : Nat) (m : Memory) : m.clear.wf size := by simp [Memory.wf, Memory.clear]

theorem Memory.redraw_wf (size : Nat) (m : Memory) : m.redraw.wf size := by simp [Memory.wf, Memory.redraw]

theorem State.reset_buf_wf : State.reset.buf.wf State.reset.params.bufBytes := by simp [Memory.wf, State.reset]

end Sys2Proof.Machine
end

