-- ==== Sys2Proof/Laws/State.lean ====
section
/-! SUPPORT. One lemma per field per update of State, each true by rfl and tagged simp. -/

namespace Sys2Proof.Machine

@[simp] theorem State.putBytes_params (s : State) (a : Nat) (xs : List Byte) : (s.putBytes a xs).params = s.params := rfl
@[simp] theorem State.putBytes_ie (s : State) (a : Nat) (xs : List Byte) : (s.putBytes a xs).ie = s.ie := rfl
@[simp] theorem State.putBytes_busy (s : State) (a : Nat) (xs : List Byte) : (s.putBytes a xs).busy = s.busy := rfl
@[simp] theorem State.putBytes_done (s : State) (a : Nat) (xs : List Byte) : (s.putBytes a xs).done = s.done := rfl
@[simp] theorem State.putBytes_ecode (s : State) (a : Nat) (xs : List Byte) : (s.putBytes a xs).ecode = s.ecode := rfl
@[simp] theorem State.putBytes_hz (s : State) (a : Nat) (xs : List Byte) : (s.putBytes a xs).hz = s.hz := rfl
@[simp] theorem State.putBytes_keyw (s : State) (a : Nat) (xs : List Byte) : (s.putBytes a xs).keyw = s.keyw := rfl
@[simp] theorem State.putBytes_cmd (s : State) (a : Nat) (xs : List Byte) : (s.putBytes a xs).cmd = s.cmd := rfl
@[simp] theorem State.putBytes_data (s : State) (a : Nat) (xs : List Byte) : (s.putBytes a xs).data = s.data := rfl
@[simp] theorem State.putBytes_seg0 (s : State) (a : Nat) (xs : List Byte) : (s.putBytes a xs).seg0 = s.seg0 := rfl
@[simp] theorem State.putBytes_seg1 (s : State) (a : Nat) (xs : List Byte) : (s.putBytes a xs).seg1 = s.seg1 := rfl
@[simp] theorem State.putBytes_seg2 (s : State) (a : Nat) (xs : List Byte) : (s.putBytes a xs).seg2 = s.seg2 := rfl
@[simp] theorem State.putBytes_seg3 (s : State) (a : Nat) (xs : List Byte) : (s.putBytes a xs).seg3 = s.seg3 := rfl
@[simp] theorem State.putBytes_key (s : State) (a : Nat) (xs : List Byte) : (s.putBytes a xs).key = s.key := rfl
@[simp] theorem State.putBytes_iv (s : State) (a : Nat) (xs : List Byte) : (s.putBytes a xs).iv = s.iv := rfl
@[simp] theorem State.putBytes_tag (s : State) (a : Nat) (xs : List Byte) : (s.putBytes a xs).tag = s.tag := rfl
@[simp] theorem State.putBytes_buf (s : State) (a : Nat) (xs : List Byte) : (s.putBytes a xs).buf = s.buf.write a xs := rfl
@[simp] theorem State.putBytes_events (s : State) (a : Nat) (xs : List Byte) : (s.putBytes a xs).events = s.events := rfl
@[simp] theorem State.putBytes_responses (s : State) (a : Nat) (xs : List Byte) : (s.putBytes a xs).responses = s.responses := rfl

@[simp] theorem State.accept_params (s : State) (w : Word) : (s.accept w).params = s.params := rfl
@[simp] theorem State.accept_ie (s : State) (w : Word) : (s.accept w).ie = s.ie := rfl
@[simp] theorem State.accept_busy (s : State) (w : Word) : (s.accept w).busy = true := rfl
@[simp] theorem State.accept_done (s : State) (w : Word) : (s.accept w).done = false := rfl
@[simp] theorem State.accept_ecode (s : State) (w : Word) : (s.accept w).ecode = .ok := rfl
@[simp] theorem State.accept_hz (s : State) (w : Word) : (s.accept w).hz = s.hz := rfl
@[simp] theorem State.accept_keyw (s : State) (w : Word) : (s.accept w).keyw = s.keyw := rfl
@[simp] theorem State.accept_cmd (s : State) (w : Word) : (s.accept w).cmd = w := rfl
@[simp] theorem State.accept_data (s : State) (w : Word) : (s.accept w).data = s.data := rfl
@[simp] theorem State.accept_seg0 (s : State) (w : Word) : (s.accept w).seg0 = s.seg0 := rfl
@[simp] theorem State.accept_seg1 (s : State) (w : Word) : (s.accept w).seg1 = s.seg1 := rfl
@[simp] theorem State.accept_seg2 (s : State) (w : Word) : (s.accept w).seg2 = s.seg2 := rfl
@[simp] theorem State.accept_seg3 (s : State) (w : Word) : (s.accept w).seg3 = s.seg3 := rfl
@[simp] theorem State.accept_key (s : State) (w : Word) : (s.accept w).key = s.key := rfl
@[simp] theorem State.accept_iv (s : State) (w : Word) : (s.accept w).iv = s.iv := rfl
@[simp] theorem State.accept_tag (s : State) (w : Word) : (s.accept w).tag = s.tag := rfl
@[simp] theorem State.accept_buf (s : State) (w : Word) : (s.accept w).buf = s.buf := rfl
@[simp] theorem State.accept_events (s : State) (w : Word) : (s.accept w).events = s.events := rfl
@[simp] theorem State.accept_responses (s : State) (w : Word) : (s.accept w).responses = s.responses := rfl

@[simp] theorem State.complete_params (s : State) (c : ECode) : (s.complete c).params = s.params := rfl
@[simp] theorem State.complete_ie (s : State) (c : ECode) : (s.complete c).ie = s.ie := rfl
@[simp] theorem State.complete_busy (s : State) (c : ECode) : (s.complete c).busy = false := rfl
@[simp] theorem State.complete_done (s : State) (c : ECode) : (s.complete c).done = true := rfl
@[simp] theorem State.complete_ecode (s : State) (c : ECode) : (s.complete c).ecode = c := rfl
@[simp] theorem State.complete_hz (s : State) (c : ECode) : (s.complete c).hz = s.hz := rfl
@[simp] theorem State.complete_keyw (s : State) (c : ECode) : (s.complete c).keyw = s.keyw := rfl
@[simp] theorem State.complete_cmd (s : State) (c : ECode) : (s.complete c).cmd = s.cmd := rfl
@[simp] theorem State.complete_data (s : State) (c : ECode) : (s.complete c).data = s.data := rfl
@[simp] theorem State.complete_seg0 (s : State) (c : ECode) : (s.complete c).seg0 = s.seg0 := rfl
@[simp] theorem State.complete_seg1 (s : State) (c : ECode) : (s.complete c).seg1 = s.seg1 := rfl
@[simp] theorem State.complete_seg2 (s : State) (c : ECode) : (s.complete c).seg2 = s.seg2 := rfl
@[simp] theorem State.complete_seg3 (s : State) (c : ECode) : (s.complete c).seg3 = s.seg3 := rfl
@[simp] theorem State.complete_key (s : State) (c : ECode) : (s.complete c).key = s.key := rfl
@[simp] theorem State.complete_iv (s : State) (c : ECode) : (s.complete c).iv = s.iv := rfl
@[simp] theorem State.complete_tag (s : State) (c : ECode) : (s.complete c).tag = s.tag := rfl
@[simp] theorem State.complete_buf (s : State) (c : ECode) : (s.complete c).buf = s.buf := rfl
@[simp] theorem State.complete_events (s : State) (c : ECode) : (s.complete c).events = s.events := rfl
@[simp] theorem State.complete_responses (s : State) (c : ECode) : (s.complete c).responses = s.responses := rfl

@[simp] theorem State.acknowledge_params (s : State) : (s.acknowledge).params = s.params := rfl
@[simp] theorem State.acknowledge_ie (s : State) : (s.acknowledge).ie = s.ie := rfl
@[simp] theorem State.acknowledge_busy (s : State) : (s.acknowledge).busy = s.busy := rfl
@[simp] theorem State.acknowledge_done (s : State) : (s.acknowledge).done = false := rfl
@[simp] theorem State.acknowledge_ecode (s : State) : (s.acknowledge).ecode = s.ecode := rfl
@[simp] theorem State.acknowledge_hz (s : State) : (s.acknowledge).hz = s.hz := rfl
@[simp] theorem State.acknowledge_keyw (s : State) : (s.acknowledge).keyw = s.keyw := rfl
@[simp] theorem State.acknowledge_cmd (s : State) : (s.acknowledge).cmd = s.cmd := rfl
@[simp] theorem State.acknowledge_data (s : State) : (s.acknowledge).data = s.data := rfl
@[simp] theorem State.acknowledge_seg0 (s : State) : (s.acknowledge).seg0 = s.seg0 := rfl
@[simp] theorem State.acknowledge_seg1 (s : State) : (s.acknowledge).seg1 = s.seg1 := rfl
@[simp] theorem State.acknowledge_seg2 (s : State) : (s.acknowledge).seg2 = s.seg2 := rfl
@[simp] theorem State.acknowledge_seg3 (s : State) : (s.acknowledge).seg3 = s.seg3 := rfl
@[simp] theorem State.acknowledge_key (s : State) : (s.acknowledge).key = s.key := rfl
@[simp] theorem State.acknowledge_iv (s : State) : (s.acknowledge).iv = s.iv := rfl
@[simp] theorem State.acknowledge_tag (s : State) : (s.acknowledge).tag = s.tag := rfl
@[simp] theorem State.acknowledge_buf (s : State) : (s.acknowledge).buf = s.buf := rfl
@[simp] theorem State.acknowledge_events (s : State) : (s.acknowledge).events = s.events := rfl
@[simp] theorem State.acknowledge_responses (s : State) : (s.acknowledge).responses = s.responses := rfl

@[simp] theorem State.clearHazard_params (s : State) : (s.clearHazard).params = s.params := rfl
@[simp] theorem State.clearHazard_ie (s : State) : (s.clearHazard).ie = s.ie := rfl
@[simp] theorem State.clearHazard_busy (s : State) : (s.clearHazard).busy = s.busy := rfl
@[simp] theorem State.clearHazard_done (s : State) : (s.clearHazard).done = s.done := rfl
@[simp] theorem State.clearHazard_ecode (s : State) : (s.clearHazard).ecode = s.ecode := rfl
@[simp] theorem State.clearHazard_hz (s : State) : (s.clearHazard).hz = false := rfl
@[simp] theorem State.clearHazard_keyw (s : State) : (s.clearHazard).keyw = s.keyw := rfl
@[simp] theorem State.clearHazard_cmd (s : State) : (s.clearHazard).cmd = s.cmd := rfl
@[simp] theorem State.clearHazard_data (s : State) : (s.clearHazard).data = s.data := rfl
@[simp] theorem State.clearHazard_seg0 (s : State) : (s.clearHazard).seg0 = s.seg0 := rfl
@[simp] theorem State.clearHazard_seg1 (s : State) : (s.clearHazard).seg1 = s.seg1 := rfl
@[simp] theorem State.clearHazard_seg2 (s : State) : (s.clearHazard).seg2 = s.seg2 := rfl
@[simp] theorem State.clearHazard_seg3 (s : State) : (s.clearHazard).seg3 = s.seg3 := rfl
@[simp] theorem State.clearHazard_key (s : State) : (s.clearHazard).key = s.key := rfl
@[simp] theorem State.clearHazard_iv (s : State) : (s.clearHazard).iv = s.iv := rfl
@[simp] theorem State.clearHazard_tag (s : State) : (s.clearHazard).tag = s.tag := rfl
@[simp] theorem State.clearHazard_buf (s : State) : (s.clearHazard).buf = s.buf := rfl
@[simp] theorem State.clearHazard_events (s : State) : (s.clearHazard).events = s.events := rfl
@[simp] theorem State.clearHazard_responses (s : State) : (s.clearHazard).responses = s.responses := rfl

@[simp] theorem State.setHazard_params (s : State) : (s.setHazard).params = s.params := rfl
@[simp] theorem State.setHazard_ie (s : State) : (s.setHazard).ie = s.ie := rfl
@[simp] theorem State.setHazard_busy (s : State) : (s.setHazard).busy = s.busy := rfl
@[simp] theorem State.setHazard_done (s : State) : (s.setHazard).done = s.done := rfl
@[simp] theorem State.setHazard_ecode (s : State) : (s.setHazard).ecode = s.ecode := rfl
@[simp] theorem State.setHazard_hz (s : State) : (s.setHazard).hz = true := rfl
@[simp] theorem State.setHazard_keyw (s : State) : (s.setHazard).keyw = s.keyw := rfl
@[simp] theorem State.setHazard_cmd (s : State) : (s.setHazard).cmd = s.cmd := rfl
@[simp] theorem State.setHazard_data (s : State) : (s.setHazard).data = s.data := rfl
@[simp] theorem State.setHazard_seg0 (s : State) : (s.setHazard).seg0 = s.seg0 := rfl
@[simp] theorem State.setHazard_seg1 (s : State) : (s.setHazard).seg1 = s.seg1 := rfl
@[simp] theorem State.setHazard_seg2 (s : State) : (s.setHazard).seg2 = s.seg2 := rfl
@[simp] theorem State.setHazard_seg3 (s : State) : (s.setHazard).seg3 = s.seg3 := rfl
@[simp] theorem State.setHazard_key (s : State) : (s.setHazard).key = s.key := rfl
@[simp] theorem State.setHazard_iv (s : State) : (s.setHazard).iv = s.iv := rfl
@[simp] theorem State.setHazard_tag (s : State) : (s.setHazard).tag = s.tag := rfl
@[simp] theorem State.setHazard_buf (s : State) : (s.setHazard).buf = s.buf := rfl
@[simp] theorem State.setHazard_events (s : State) : (s.setHazard).events = s.events := rfl
@[simp] theorem State.setHazard_responses (s : State) : (s.setHazard).responses = s.responses := rfl

@[simp] theorem State.setIe_params (s : State) (b : Bool) : (s.setIe b).params = s.params := rfl
@[simp] theorem State.setIe_ie (s : State) (b : Bool) : (s.setIe b).ie = b := rfl
@[simp] theorem State.setIe_busy (s : State) (b : Bool) : (s.setIe b).busy = s.busy := rfl
@[simp] theorem State.setIe_done (s : State) (b : Bool) : (s.setIe b).done = s.done := rfl
@[simp] theorem State.setIe_ecode (s : State) (b : Bool) : (s.setIe b).ecode = s.ecode := rfl
@[simp] theorem State.setIe_hz (s : State) (b : Bool) : (s.setIe b).hz = s.hz := rfl
@[simp] theorem State.setIe_keyw (s : State) (b : Bool) : (s.setIe b).keyw = s.keyw := rfl
@[simp] theorem State.setIe_cmd (s : State) (b : Bool) : (s.setIe b).cmd = s.cmd := rfl
@[simp] theorem State.setIe_data (s : State) (b : Bool) : (s.setIe b).data = s.data := rfl
@[simp] theorem State.setIe_seg0 (s : State) (b : Bool) : (s.setIe b).seg0 = s.seg0 := rfl
@[simp] theorem State.setIe_seg1 (s : State) (b : Bool) : (s.setIe b).seg1 = s.seg1 := rfl
@[simp] theorem State.setIe_seg2 (s : State) (b : Bool) : (s.setIe b).seg2 = s.seg2 := rfl
@[simp] theorem State.setIe_seg3 (s : State) (b : Bool) : (s.setIe b).seg3 = s.seg3 := rfl
@[simp] theorem State.setIe_key (s : State) (b : Bool) : (s.setIe b).key = s.key := rfl
@[simp] theorem State.setIe_iv (s : State) (b : Bool) : (s.setIe b).iv = s.iv := rfl
@[simp] theorem State.setIe_tag (s : State) (b : Bool) : (s.setIe b).tag = s.tag := rfl
@[simp] theorem State.setIe_buf (s : State) (b : Bool) : (s.setIe b).buf = s.buf := rfl
@[simp] theorem State.setIe_events (s : State) (b : Bool) : (s.setIe b).events = s.events := rfl
@[simp] theorem State.setIe_responses (s : State) (b : Bool) : (s.setIe b).responses = s.responses := rfl

@[simp] theorem State.putTag_params (s : State) (t : Block) : (s.putTag t).params = s.params := rfl
@[simp] theorem State.putTag_ie (s : State) (t : Block) : (s.putTag t).ie = s.ie := rfl
@[simp] theorem State.putTag_busy (s : State) (t : Block) : (s.putTag t).busy = s.busy := rfl
@[simp] theorem State.putTag_done (s : State) (t : Block) : (s.putTag t).done = s.done := rfl
@[simp] theorem State.putTag_ecode (s : State) (t : Block) : (s.putTag t).ecode = s.ecode := rfl
@[simp] theorem State.putTag_hz (s : State) (t : Block) : (s.putTag t).hz = s.hz := rfl
@[simp] theorem State.putTag_keyw (s : State) (t : Block) : (s.putTag t).keyw = s.keyw := rfl
@[simp] theorem State.putTag_cmd (s : State) (t : Block) : (s.putTag t).cmd = s.cmd := rfl
@[simp] theorem State.putTag_data (s : State) (t : Block) : (s.putTag t).data = s.data := rfl
@[simp] theorem State.putTag_seg0 (s : State) (t : Block) : (s.putTag t).seg0 = s.seg0 := rfl
@[simp] theorem State.putTag_seg1 (s : State) (t : Block) : (s.putTag t).seg1 = s.seg1 := rfl
@[simp] theorem State.putTag_seg2 (s : State) (t : Block) : (s.putTag t).seg2 = s.seg2 := rfl
@[simp] theorem State.putTag_seg3 (s : State) (t : Block) : (s.putTag t).seg3 = s.seg3 := rfl
@[simp] theorem State.putTag_key (s : State) (t : Block) : (s.putTag t).key = s.key := rfl
@[simp] theorem State.putTag_iv (s : State) (t : Block) : (s.putTag t).iv = s.iv := rfl
@[simp] theorem State.putTag_tag (s : State) (t : Block) : (s.putTag t).tag = t := rfl
@[simp] theorem State.putTag_buf (s : State) (t : Block) : (s.putTag t).buf = s.buf := rfl
@[simp] theorem State.putTag_events (s : State) (t : Block) : (s.putTag t).events = s.events := rfl
@[simp] theorem State.putTag_responses (s : State) (t : Block) : (s.putTag t).responses = s.responses := rfl

@[simp] theorem State.putKeyWord_params (s : State) (w : Fin 4) (v : Word) : (s.putKeyWord w v).params = s.params := rfl
@[simp] theorem State.putKeyWord_ie (s : State) (w : Fin 4) (v : Word) : (s.putKeyWord w v).ie = s.ie := rfl
@[simp] theorem State.putKeyWord_busy (s : State) (w : Fin 4) (v : Word) : (s.putKeyWord w v).busy = s.busy := rfl
@[simp] theorem State.putKeyWord_done (s : State) (w : Fin 4) (v : Word) : (s.putKeyWord w v).done = s.done := rfl
@[simp] theorem State.putKeyWord_ecode (s : State) (w : Fin 4) (v : Word) : (s.putKeyWord w v).ecode = s.ecode := rfl
@[simp] theorem State.putKeyWord_hz (s : State) (w : Fin 4) (v : Word) : (s.putKeyWord w v).hz = s.hz := rfl
@[simp] theorem State.putKeyWord_keyw (s : State) (w : Fin 4) (v : Word) : (s.putKeyWord w v).keyw = s.keyw ||| (1#4 <<< w.val) := rfl
@[simp] theorem State.putKeyWord_cmd (s : State) (w : Fin 4) (v : Word) : (s.putKeyWord w v).cmd = s.cmd := rfl
@[simp] theorem State.putKeyWord_data (s : State) (w : Fin 4) (v : Word) : (s.putKeyWord w v).data = s.data := rfl
@[simp] theorem State.putKeyWord_seg0 (s : State) (w : Fin 4) (v : Word) : (s.putKeyWord w v).seg0 = s.seg0 := rfl
@[simp] theorem State.putKeyWord_seg1 (s : State) (w : Fin 4) (v : Word) : (s.putKeyWord w v).seg1 = s.seg1 := rfl
@[simp] theorem State.putKeyWord_seg2 (s : State) (w : Fin 4) (v : Word) : (s.putKeyWord w v).seg2 = s.seg2 := rfl
@[simp] theorem State.putKeyWord_seg3 (s : State) (w : Fin 4) (v : Word) : (s.putKeyWord w v).seg3 = s.seg3 := rfl
@[simp] theorem State.putKeyWord_key (s : State) (w : Fin 4) (v : Word) : (s.putKeyWord w v).key = setWordOfBlock s.key w v := rfl
@[simp] theorem State.putKeyWord_iv (s : State) (w : Fin 4) (v : Word) : (s.putKeyWord w v).iv = s.iv := rfl
@[simp] theorem State.putKeyWord_tag (s : State) (w : Fin 4) (v : Word) : (s.putKeyWord w v).tag = s.tag := rfl
@[simp] theorem State.putKeyWord_buf (s : State) (w : Fin 4) (v : Word) : (s.putKeyWord w v).buf = s.buf := rfl
@[simp] theorem State.putKeyWord_events (s : State) (w : Fin 4) (v : Word) : (s.putKeyWord w v).events = s.events := rfl
@[simp] theorem State.putKeyWord_responses (s : State) (w : Fin 4) (v : Word) : (s.putKeyWord w v).responses = s.responses := rfl

@[simp] theorem State.putIvWord_params (s : State) (w : Fin 4) (v : Word) : (s.putIvWord w v).params = s.params := rfl
@[simp] theorem State.putIvWord_ie (s : State) (w : Fin 4) (v : Word) : (s.putIvWord w v).ie = s.ie := rfl
@[simp] theorem State.putIvWord_busy (s : State) (w : Fin 4) (v : Word) : (s.putIvWord w v).busy = s.busy := rfl
@[simp] theorem State.putIvWord_done (s : State) (w : Fin 4) (v : Word) : (s.putIvWord w v).done = s.done := rfl
@[simp] theorem State.putIvWord_ecode (s : State) (w : Fin 4) (v : Word) : (s.putIvWord w v).ecode = s.ecode := rfl
@[simp] theorem State.putIvWord_hz (s : State) (w : Fin 4) (v : Word) : (s.putIvWord w v).hz = s.hz := rfl
@[simp] theorem State.putIvWord_keyw (s : State) (w : Fin 4) (v : Word) : (s.putIvWord w v).keyw = s.keyw := rfl
@[simp] theorem State.putIvWord_cmd (s : State) (w : Fin 4) (v : Word) : (s.putIvWord w v).cmd = s.cmd := rfl
@[simp] theorem State.putIvWord_data (s : State) (w : Fin 4) (v : Word) : (s.putIvWord w v).data = s.data := rfl
@[simp] theorem State.putIvWord_seg0 (s : State) (w : Fin 4) (v : Word) : (s.putIvWord w v).seg0 = s.seg0 := rfl
@[simp] theorem State.putIvWord_seg1 (s : State) (w : Fin 4) (v : Word) : (s.putIvWord w v).seg1 = s.seg1 := rfl
@[simp] theorem State.putIvWord_seg2 (s : State) (w : Fin 4) (v : Word) : (s.putIvWord w v).seg2 = s.seg2 := rfl
@[simp] theorem State.putIvWord_seg3 (s : State) (w : Fin 4) (v : Word) : (s.putIvWord w v).seg3 = s.seg3 := rfl
@[simp] theorem State.putIvWord_key (s : State) (w : Fin 4) (v : Word) : (s.putIvWord w v).key = s.key := rfl
@[simp] theorem State.putIvWord_iv (s : State) (w : Fin 4) (v : Word) : (s.putIvWord w v).iv = setWordOfBlock s.iv w v := rfl
@[simp] theorem State.putIvWord_tag (s : State) (w : Fin 4) (v : Word) : (s.putIvWord w v).tag = s.tag := rfl
@[simp] theorem State.putIvWord_buf (s : State) (w : Fin 4) (v : Word) : (s.putIvWord w v).buf = s.buf := rfl
@[simp] theorem State.putIvWord_events (s : State) (w : Fin 4) (v : Word) : (s.putIvWord w v).events = s.events := rfl
@[simp] theorem State.putIvWord_responses (s : State) (w : Fin 4) (v : Word) : (s.putIvWord w v).responses = s.responses := rfl

@[simp] theorem State.putTagWord_params (s : State) (w : Fin 4) (v : Word) : (s.putTagWord w v).params = s.params := rfl
@[simp] theorem State.putTagWord_ie (s : State) (w : Fin 4) (v : Word) : (s.putTagWord w v).ie = s.ie := rfl
@[simp] theorem State.putTagWord_busy (s : State) (w : Fin 4) (v : Word) : (s.putTagWord w v).busy = s.busy := rfl
@[simp] theorem State.putTagWord_done (s : State) (w : Fin 4) (v : Word) : (s.putTagWord w v).done = s.done := rfl
@[simp] theorem State.putTagWord_ecode (s : State) (w : Fin 4) (v : Word) : (s.putTagWord w v).ecode = s.ecode := rfl
@[simp] theorem State.putTagWord_hz (s : State) (w : Fin 4) (v : Word) : (s.putTagWord w v).hz = s.hz := rfl
@[simp] theorem State.putTagWord_keyw (s : State) (w : Fin 4) (v : Word) : (s.putTagWord w v).keyw = s.keyw := rfl
@[simp] theorem State.putTagWord_cmd (s : State) (w : Fin 4) (v : Word) : (s.putTagWord w v).cmd = s.cmd := rfl
@[simp] theorem State.putTagWord_data (s : State) (w : Fin 4) (v : Word) : (s.putTagWord w v).data = s.data := rfl
@[simp] theorem State.putTagWord_seg0 (s : State) (w : Fin 4) (v : Word) : (s.putTagWord w v).seg0 = s.seg0 := rfl
@[simp] theorem State.putTagWord_seg1 (s : State) (w : Fin 4) (v : Word) : (s.putTagWord w v).seg1 = s.seg1 := rfl
@[simp] theorem State.putTagWord_seg2 (s : State) (w : Fin 4) (v : Word) : (s.putTagWord w v).seg2 = s.seg2 := rfl
@[simp] theorem State.putTagWord_seg3 (s : State) (w : Fin 4) (v : Word) : (s.putTagWord w v).seg3 = s.seg3 := rfl
@[simp] theorem State.putTagWord_key (s : State) (w : Fin 4) (v : Word) : (s.putTagWord w v).key = s.key := rfl
@[simp] theorem State.putTagWord_iv (s : State) (w : Fin 4) (v : Word) : (s.putTagWord w v).iv = s.iv := rfl
@[simp] theorem State.putTagWord_tag (s : State) (w : Fin 4) (v : Word) : (s.putTagWord w v).tag = setWordOfBlock s.tag w v := rfl
@[simp] theorem State.putTagWord_buf (s : State) (w : Fin 4) (v : Word) : (s.putTagWord w v).buf = s.buf := rfl
@[simp] theorem State.putTagWord_events (s : State) (w : Fin 4) (v : Word) : (s.putTagWord w v).events = s.events := rfl
@[simp] theorem State.putTagWord_responses (s : State) (w : Fin 4) (v : Word) : (s.putTagWord w v).responses = s.responses := rfl

@[simp] theorem State.zeroized_params (s : State) : (s.zeroized).params = s.params := rfl
@[simp] theorem State.zeroized_ie (s : State) : (s.zeroized).ie = s.ie := rfl
@[simp] theorem State.zeroized_busy (s : State) : (s.zeroized).busy = s.busy := rfl
@[simp] theorem State.zeroized_done (s : State) : (s.zeroized).done = s.done := rfl
@[simp] theorem State.zeroized_ecode (s : State) : (s.zeroized).ecode = s.ecode := rfl
@[simp] theorem State.zeroized_hz (s : State) : (s.zeroized).hz = s.hz := rfl
@[simp] theorem State.zeroized_keyw (s : State) : (s.zeroized).keyw = 0#4 := rfl
@[simp] theorem State.zeroized_cmd (s : State) : (s.zeroized).cmd = s.cmd := rfl
@[simp] theorem State.zeroized_data (s : State) : (s.zeroized).data = s.data := rfl
@[simp] theorem State.zeroized_seg0 (s : State) : (s.zeroized).seg0 = s.seg0 := rfl
@[simp] theorem State.zeroized_seg1 (s : State) : (s.zeroized).seg1 = s.seg1 := rfl
@[simp] theorem State.zeroized_seg2 (s : State) : (s.zeroized).seg2 = s.seg2 := rfl
@[simp] theorem State.zeroized_seg3 (s : State) : (s.zeroized).seg3 = s.seg3 := rfl
@[simp] theorem State.zeroized_key (s : State) : (s.zeroized).key = 0#128 := rfl
@[simp] theorem State.zeroized_iv (s : State) : (s.zeroized).iv = 0#128 := rfl
@[simp] theorem State.zeroized_tag (s : State) : (s.zeroized).tag = 0#128 := rfl
@[simp] theorem State.zeroized_buf (s : State) : (s.zeroized).buf = s.buf.clear := rfl
@[simp] theorem State.zeroized_events (s : State) : (s.zeroized).events = s.events := rfl
@[simp] theorem State.zeroized_responses (s : State) : (s.zeroized).responses = s.responses := rfl

@[simp] theorem State.clearRegisters_params (s : State) : (s.clearRegisters).params = s.params := rfl
@[simp] theorem State.clearRegisters_ie (s : State) : (s.clearRegisters).ie = false := rfl
@[simp] theorem State.clearRegisters_busy (s : State) : (s.clearRegisters).busy = false := rfl
@[simp] theorem State.clearRegisters_done (s : State) : (s.clearRegisters).done = false := rfl
@[simp] theorem State.clearRegisters_ecode (s : State) : (s.clearRegisters).ecode = .ok := rfl
@[simp] theorem State.clearRegisters_hz (s : State) : (s.clearRegisters).hz = false := rfl
@[simp] theorem State.clearRegisters_keyw (s : State) : (s.clearRegisters).keyw = 0#4 := rfl
@[simp] theorem State.clearRegisters_cmd (s : State) : (s.clearRegisters).cmd = 0#32 := rfl
@[simp] theorem State.clearRegisters_data (s : State) : (s.clearRegisters).data = Region.zero := rfl
@[simp] theorem State.clearRegisters_seg0 (s : State) : (s.clearRegisters).seg0 = Region.zero := rfl
@[simp] theorem State.clearRegisters_seg1 (s : State) : (s.clearRegisters).seg1 = Region.zero := rfl
@[simp] theorem State.clearRegisters_seg2 (s : State) : (s.clearRegisters).seg2 = Region.zero := rfl
@[simp] theorem State.clearRegisters_seg3 (s : State) : (s.clearRegisters).seg3 = Region.zero := rfl
@[simp] theorem State.clearRegisters_key (s : State) : (s.clearRegisters).key = 0#128 := rfl
@[simp] theorem State.clearRegisters_iv (s : State) : (s.clearRegisters).iv = 0#128 := rfl
@[simp] theorem State.clearRegisters_tag (s : State) : (s.clearRegisters).tag = 0#128 := rfl
@[simp] theorem State.clearRegisters_buf (s : State) : (s.clearRegisters).buf = s.buf := rfl
@[simp] theorem State.clearRegisters_events (s : State) : (s.clearRegisters).events = s.events := rfl
@[simp] theorem State.clearRegisters_responses (s : State) : (s.clearRegisters).responses = s.responses := rfl

@[simp] theorem State.softReset_params (s : State) : (s.softReset).params = s.params := rfl
@[simp] theorem State.softReset_ie (s : State) : (s.softReset).ie = false := rfl
@[simp] theorem State.softReset_busy (s : State) : (s.softReset).busy = false := rfl
@[simp] theorem State.softReset_done (s : State) : (s.softReset).done = false := rfl
@[simp] theorem State.softReset_ecode (s : State) : (s.softReset).ecode = .ok := rfl
@[simp] theorem State.softReset_hz (s : State) : (s.softReset).hz = false := rfl
@[simp] theorem State.softReset_keyw (s : State) : (s.softReset).keyw = 0#4 := rfl
@[simp] theorem State.softReset_cmd (s : State) : (s.softReset).cmd = 0#32 := rfl
@[simp] theorem State.softReset_data (s : State) : (s.softReset).data = Region.zero := rfl
@[simp] theorem State.softReset_seg0 (s : State) : (s.softReset).seg0 = Region.zero := rfl
@[simp] theorem State.softReset_seg1 (s : State) : (s.softReset).seg1 = Region.zero := rfl
@[simp] theorem State.softReset_seg2 (s : State) : (s.softReset).seg2 = Region.zero := rfl
@[simp] theorem State.softReset_seg3 (s : State) : (s.softReset).seg3 = Region.zero := rfl
@[simp] theorem State.softReset_key (s : State) : (s.softReset).key = 0#128 := rfl
@[simp] theorem State.softReset_iv (s : State) : (s.softReset).iv = 0#128 := rfl
@[simp] theorem State.softReset_tag (s : State) : (s.softReset).tag = 0#128 := rfl
@[simp] theorem State.softReset_buf (s : State) : (s.softReset).buf = if s.busy then s.buf.redraw else s.buf := rfl
@[simp] theorem State.softReset_events (s : State) : (s.softReset).events = s.events := rfl
@[simp] theorem State.softReset_responses (s : State) : (s.softReset).responses = s.responses := rfl

@[simp] theorem State.hardReset_params (s : State) : (s.hardReset).params = s.params := rfl
@[simp] theorem State.hardReset_ie (s : State) : (s.hardReset).ie = false := rfl
@[simp] theorem State.hardReset_busy (s : State) : (s.hardReset).busy = false := rfl
@[simp] theorem State.hardReset_done (s : State) : (s.hardReset).done = false := rfl
@[simp] theorem State.hardReset_ecode (s : State) : (s.hardReset).ecode = .ok := rfl
@[simp] theorem State.hardReset_hz (s : State) : (s.hardReset).hz = false := rfl
@[simp] theorem State.hardReset_keyw (s : State) : (s.hardReset).keyw = 0#4 := rfl
@[simp] theorem State.hardReset_cmd (s : State) : (s.hardReset).cmd = 0#32 := rfl
@[simp] theorem State.hardReset_data (s : State) : (s.hardReset).data = Region.zero := rfl
@[simp] theorem State.hardReset_seg0 (s : State) : (s.hardReset).seg0 = Region.zero := rfl
@[simp] theorem State.hardReset_seg1 (s : State) : (s.hardReset).seg1 = Region.zero := rfl
@[simp] theorem State.hardReset_seg2 (s : State) : (s.hardReset).seg2 = Region.zero := rfl
@[simp] theorem State.hardReset_seg3 (s : State) : (s.hardReset).seg3 = Region.zero := rfl
@[simp] theorem State.hardReset_key (s : State) : (s.hardReset).key = 0#128 := rfl
@[simp] theorem State.hardReset_iv (s : State) : (s.hardReset).iv = 0#128 := rfl
@[simp] theorem State.hardReset_tag (s : State) : (s.hardReset).tag = 0#128 := rfl
@[simp] theorem State.hardReset_buf (s : State) : (s.hardReset).buf = s.buf.redraw := rfl
@[simp] theorem State.hardReset_events (s : State) : (s.hardReset).events = s.events := rfl
@[simp] theorem State.hardReset_responses (s : State) : (s.hardReset).responses = s.responses := rfl

@[simp] theorem State.popEvent_params (s : State) (es : List Event) : (s.popEvent es).params = s.params := rfl
@[simp] theorem State.popEvent_ie (s : State) (es : List Event) : (s.popEvent es).ie = s.ie := rfl
@[simp] theorem State.popEvent_busy (s : State) (es : List Event) : (s.popEvent es).busy = s.busy := rfl
@[simp] theorem State.popEvent_done (s : State) (es : List Event) : (s.popEvent es).done = s.done := rfl
@[simp] theorem State.popEvent_ecode (s : State) (es : List Event) : (s.popEvent es).ecode = s.ecode := rfl
@[simp] theorem State.popEvent_hz (s : State) (es : List Event) : (s.popEvent es).hz = s.hz := rfl
@[simp] theorem State.popEvent_keyw (s : State) (es : List Event) : (s.popEvent es).keyw = s.keyw := rfl
@[simp] theorem State.popEvent_cmd (s : State) (es : List Event) : (s.popEvent es).cmd = s.cmd := rfl
@[simp] theorem State.popEvent_data (s : State) (es : List Event) : (s.popEvent es).data = s.data := rfl
@[simp] theorem State.popEvent_seg0 (s : State) (es : List Event) : (s.popEvent es).seg0 = s.seg0 := rfl
@[simp] theorem State.popEvent_seg1 (s : State) (es : List Event) : (s.popEvent es).seg1 = s.seg1 := rfl
@[simp] theorem State.popEvent_seg2 (s : State) (es : List Event) : (s.popEvent es).seg2 = s.seg2 := rfl
@[simp] theorem State.popEvent_seg3 (s : State) (es : List Event) : (s.popEvent es).seg3 = s.seg3 := rfl
@[simp] theorem State.popEvent_key (s : State) (es : List Event) : (s.popEvent es).key = s.key := rfl
@[simp] theorem State.popEvent_iv (s : State) (es : List Event) : (s.popEvent es).iv = s.iv := rfl
@[simp] theorem State.popEvent_tag (s : State) (es : List Event) : (s.popEvent es).tag = s.tag := rfl
@[simp] theorem State.popEvent_buf (s : State) (es : List Event) : (s.popEvent es).buf = s.buf := rfl
@[simp] theorem State.popEvent_events (s : State) (es : List Event) : (s.popEvent es).events = es := rfl
@[simp] theorem State.popEvent_responses (s : State) (es : List Event) : (s.popEvent es).responses = s.responses := rfl

@[simp] theorem respond_params (r : Response × State) : (respond r).params = r.2.params := rfl
@[simp] theorem respond_ie (r : Response × State) : (respond r).ie = r.2.ie := rfl
@[simp] theorem respond_busy (r : Response × State) : (respond r).busy = r.2.busy := rfl
@[simp] theorem respond_done (r : Response × State) : (respond r).done = r.2.done := rfl
@[simp] theorem respond_ecode (r : Response × State) : (respond r).ecode = r.2.ecode := rfl
@[simp] theorem respond_hz (r : Response × State) : (respond r).hz = r.2.hz := rfl
@[simp] theorem respond_keyw (r : Response × State) : (respond r).keyw = r.2.keyw := rfl
@[simp] theorem respond_cmd (r : Response × State) : (respond r).cmd = r.2.cmd := rfl
@[simp] theorem respond_data (r : Response × State) : (respond r).data = r.2.data := rfl
@[simp] theorem respond_seg0 (r : Response × State) : (respond r).seg0 = r.2.seg0 := rfl
@[simp] theorem respond_seg1 (r : Response × State) : (respond r).seg1 = r.2.seg1 := rfl
@[simp] theorem respond_seg2 (r : Response × State) : (respond r).seg2 = r.2.seg2 := rfl
@[simp] theorem respond_seg3 (r : Response × State) : (respond r).seg3 = r.2.seg3 := rfl
@[simp] theorem respond_key (r : Response × State) : (respond r).key = r.2.key := rfl
@[simp] theorem respond_iv (r : Response × State) : (respond r).iv = r.2.iv := rfl
@[simp] theorem respond_tag (r : Response × State) : (respond r).tag = r.2.tag := rfl
@[simp] theorem respond_buf (r : Response × State) : (respond r).buf = r.2.buf := rfl
@[simp] theorem respond_events (r : Response × State) : (respond r).events = r.2.events := rfl
@[simp] theorem respond_responses (r : Response × State) : (respond r).responses = r.1 :: r.2.responses := rfl

end Sys2Proof.Machine
end

