-- ==== Sys2Proof/Laws/Ops.lean ====
section
/-! SUPPORT. Once for each shared operation: everything it can do. -/

namespace Sys2Proof.Machine

/-! ### Checks: what they answer, in both cases -/

theorem requireKey_of_loaded {s : State} {k : Answer} (h : s.keyLoaded) : requireKey s k = k := if_pos h

theorem requireKey_of_not {s : State} {k : Answer} (h : ¬ s.keyLoaded) :
    requireKey s k = .next (s.complete .keyNotLoaded) := if_neg h

theorem requireForm_of_true {s : State} {b : Bool} {k : Answer} (h : b = true) : requireForm b s k = k := if_pos h

theorem requireForm_of_false {s : State} {b : Bool} {k : Answer} (h : b = false) :
    requireForm b s k = .next (s.complete .malformedLength) := if_neg (by simp [h])

theorem inRange_iff (s : State) (r : Region) : Region.inRange s.params r = true ↔ s.fits r := by
  simp [Region.inRange, State.fits]

theorem requireRegions_of_fit {s : State} {rs : List Region} {k : Answer} (h : ∀ r ∈ rs, s.fits r) :
    requireRegions rs s k = k := if_pos (by simpa [List.all_eq_true, inRange_iff] using h)

theorem requireRegions_of_not {s : State} {rs : List Region} {k : Answer} (h : ¬ ∀ r ∈ rs, s.fits r) :
    requireRegions rs s k = .next (s.complete .malformedLength) :=
  if_neg (by simpa [List.all_eq_true, inRange_iff] using h)

/-- The key check either passes or completes with KeyNotLoaded. -/
theorem requireKey_next {s t : State} {k : Answer} (h : requireKey s k = .next t) :
    (s.keyLoaded ∧ k = .next t) ∨ (¬ s.keyLoaded ∧ t = s.complete .keyNotLoaded) := by
  by_cases hk : s.keyLoaded
  · exact .inl ⟨hk, (requireKey_of_loaded hk).symm.trans h⟩
  · rw [requireKey_of_not hk] at h; cases h; exact .inr ⟨hk, rfl⟩

/-- The check of a length either passes or completes with MalformedLength. -/
theorem requireForm_next {s t : State} {b : Bool} {k : Answer} (h : requireForm b s k = .next t) :
    (b = true ∧ k = .next t) ∨ (b = false ∧ t = s.complete .malformedLength) := by
  cases b
  · rw [requireForm_of_false rfl] at h; cases h; exact .inr ⟨rfl, rfl⟩
  · exact .inl ⟨rfl, h⟩

/-- The range check either passes or completes with MalformedLength. -/
theorem requireRegions_next {s t : State} {rs : List Region} {k : Answer} (h : requireRegions rs s k = .next t) :
    ((∀ r ∈ rs, s.fits r) ∧ k = .next t) ∨ ((¬ ∀ r ∈ rs, s.fits r) ∧ t = s.complete .malformedLength) := by
  by_cases hf : ∀ r ∈ rs, s.fits r
  · exact .inl ⟨hf, (requireRegions_of_fit hf).symm.trans h⟩
  · rw [requireRegions_of_not hf] at h; cases h; exact .inr ⟨hf, rfl⟩

/-! ### Engine accesses -/

theorem memRead_of_le {s : State} {a n : Nat} {k : List Byte → Answer} (h : a + n ≤ s.params.bufBytes) :
    memRead s a n k = k (s.buf.readBytes a n) := if_pos h

theorem memWrite_of_le {s : State} {a : Nat} {xs : List Byte} {k : State → Answer}
    (h : a + xs.length ≤ s.params.bufBytes) : memWrite s a xs k = k (s.putBytes a xs) := if_pos h

theorem readRegion_of_fit {s : State} {r : Region} {k : List Byte → Answer} (h : s.fits r) :
    readRegion s r k = k (s.regionBytes r) := memRead_of_le h

theorem readRegions_of_fit {s : State} {rs : List Region} {k : List (List Byte) → Answer} (h : ∀ r ∈ rs, s.fits r) :
    readRegions s rs k = k (rs.map s.regionBytes) := by
  induction rs generalizing k with
  | nil => rfl
  | cons r rs ih =>
    simp only [readRegions, List.map_cons]
    rw [readRegion_of_fit (h r (by simp)), ih fun r' hr => h r' (by simp [hr])]

/-- A read of BUF answers its continuation, or stops out of range. -/
theorem memRead_next {s t : State} {a n : Nat} {k : List Byte → Answer} (h : memRead s a n k = .next t) :
    a + n ≤ s.params.bufBytes ∧ k (s.buf.readBytes a n) = .next t := by
  unfold memRead at h
  split at h
  · exact ⟨‹_›, h⟩
  · cases h

/-- A write of BUF answers its continuation, or stops out of range. -/
theorem memWrite_next {s t : State} {a : Nat} {xs : List Byte} {k : State → Answer} (h : memWrite s a xs k = .next t) :
    a + xs.length ≤ s.params.bufBytes ∧ k (s.putBytes a xs) = .next t := by
  unfold memWrite at h
  split at h
  · exact ⟨‹_›, h⟩
  · cases h

/-- A reading of one region answers its continuation, or stops out of range. -/
theorem readRegion_next {s t : State} {r : Region} {k : List Byte → Answer} (h : readRegion s r k = .next t) :
    s.fits r ∧ k (s.regionBytes r) = .next t := memRead_next h

/-- A reading of regions answers its continuation, or stops out of range. -/
theorem readRegions_next {s t : State} {rs : List Region} {k : List (List Byte) → Answer}
    (h : readRegions s rs k = .next t) : (∀ r ∈ rs, s.fits r) ∧ k (rs.map s.regionBytes) = .next t := by
  induction rs generalizing k with
  | nil => exact ⟨by simp, h⟩
  | cons r rs ih =>
    obtain ⟨hr, h⟩ := readRegion_next (k := fun x => readRegions s rs fun xs => k (x :: xs)) h
    obtain ⟨hrs, h⟩ := ih h
    exact ⟨by simpa using ⟨hr, hrs⟩, h⟩

/-! ### Commands that write the DATA region -/

theorem State.regionBytes_length (s : State) (r : Region) : (s.regionBytes r).length = r.len.toNat := by
  simp [State.regionBytes]

/-- Writing a string as long as the DATA region over it and completing leaves exactly that. -/
theorem DataBecomes.of_write {s : State} {xs : List Byte} {c : ECode} (h : xs.length = s.data.len.toNat) :
    DataBecomes s ((s.putBytes s.data.addr.toNat xs).complete c) xs c := by
  refine ⟨h, ?_, ?_, rfl⟩
  · simp only [State.regionBytes, State.complete_buf, State.putBytes_buf, ← h]
    exact Memory.readBytes_write_same _ _ _
  · intro a ha
    simp only [State.complete_buf, State.putBytes_buf]
    exact Memory.read_write_outside (by omega)

/-- What a transforming command does when its region fits and its function keeps the length. -/
theorem transformData_of_fit {s : State} {f : List Byte → List Byte} (h : s.fits s.data)
    (hf : (f (s.regionBytes s.data)).length = s.data.len.toNat) :
    ∃ t, transformData s f = .next t ∧ DataBecomes s t (f (s.regionBytes s.data)) .ok := by
  refine ⟨_, ?_, DataBecomes.of_write hf⟩
  unfold transformData
  rw [readRegion_of_fit h, memWrite_of_le]
  · rfl
  · unfold State.fits at h; omega

/-- Everything a transforming command can answer. -/
theorem transformData_next {s t : State} {f : List Byte → List Byte} (h : transformData s f = .next t) :
    s.fits s.data ∧ t = (s.putBytes s.data.addr.toNat (f (s.regionBytes s.data))).complete .ok := by
  unfold transformData at h
  obtain ⟨hr, h⟩ := readRegion_next h
  obtain ⟨-, h⟩ := memWrite_next h
  cases h
  exact ⟨hr, rfl⟩

/-- Completion with a code touches nothing but STATUS. -/
theorem complete_eq_completedWith (s : State) (c : ECode) : s.complete c = completedWith s c := rfl

/-! ### Host accesses -/

/-- Everything a host read can do. -/
theorem hostRead_cases (s : State) (off : Nat) (n : Width) :
    (hostTarget s.params off n = none ∧ hostRead s off n = (.busError, s)) ∨
    (∃ t, hostTarget s.params off n = some t ∧ gated s t = true ∧ hostRead s off n = (.value 0#32, s.setHazard)) ∨
    (∃ t, hostTarget s.params off n = some t ∧ gated s t = false ∧ hostRead s off n = (.value (readTarget s n t), s)) := by
  unfold hostRead
  cases h : hostTarget s.params off n with
  | none => exact .inl ⟨rfl, rfl⟩
  | some t =>
    cases hg : gated s t with
    | true => exact .inr (.inl ⟨t, rfl, hg, by simp [hg]⟩)
    | false => exact .inr (.inr ⟨t, rfl, hg, by simp [hg]⟩)

/-- Everything a host write can do. -/
theorem hostWrite_cases (s : State) (off : Nat) (n : Width) (v : Word) :
    (hostTarget s.params off n = none ∧ hostWrite s off n v = (.busError, s)) ∨
    (∃ t, hostTarget s.params off n = some t ∧ gated s t = true ∧ hostWrite s off n v = (.ok, s.setHazard)) ∨
    (∃ t, hostTarget s.params off n = some t ∧ gated s t = false ∧
      hostWrite s off n v = (.ok, writeTarget s n v t)) := by
  unfold hostWrite
  cases h : hostTarget s.params off n with
  | none => exact .inl ⟨rfl, rfl⟩
  | some t =>
    cases hg : gated s t with
    | true => exact .inr (.inl ⟨t, rfl, hg, by simp [hg]⟩)
    | false => exact .inr (.inr ⟨t, rfl, hg, by simp [hg]⟩)

/-- Everything a target can be: a register of the map, or an address of BUF inside the window. -/
theorem hostTarget_some {p : Config.Params} {off : Nat} {n : Width} {t : Target} (h : hostTarget p off n = some t) :
    (off < 0x070 ∧ n = .w4 ∧ registerMap.lookup off = some t) ∨
    (0x070 ≤ off ∧ p.bufOff ≤ off ∧ off + n.bytes ≤ p.bufOff + p.bufBytes ∧ t = .buf (off - p.bufOff)) := by
  unfold hostTarget at h
  split at h
  · cases h
  · split at h
    · split at h
      · exact .inl ⟨‹_›, ‹_›, h⟩
      · cases h
    · split at h
      · rename_i hb
        exact .inr ⟨by omega, hb.1, hb.2, by simpa using h.symm⟩
      · cases h

@[simp] theorem laneBytes_length (n : Width) (v : Word) : (laneBytes n v).length = n.bytes := by simp [laneBytes]

/-- A row of the register map that is found is in it. -/
theorem mem_registerMap {off : Nat} {t : Target} (h : registerMap.lookup off = some t) : (off, t) ∈ registerMap := by
  have mem : ∀ l : List (Nat × Target), l.lookup off = some t → (off, t) ∈ l := by
    intro l
    induction l with
    | nil => intro h; cases h
    | cons c l ih =>
      intro h
      rw [List.lookup_cons] at h
      split at h
      · rename_i he
        rw [beq_iff_eq] at he; cases h; subst he; exact .head _
      · exact .tail _ (ih h)
  exact mem _ h

/-- Every register is a word below 0x070, and only those below 0x00C pass the busy gate. -/
theorem registerMap_bounds {off : Nat} {t : Target} (h : registerMap.lookup off = some t) :
    off < 0x070 ∧ off % 4 = 0 ∧ (off < 0x00C ↔ t.gateExempt = true) ∧ ∀ a, t ≠ .buf a := by
  have hall : ∀ c ∈ registerMap, c.1 < 0x070 ∧ c.1 % 4 = 0 ∧ (c.1 < 0x00C ↔ c.2.gateExempt = true) := by decide
  have hbuf : ∀ c ∈ registerMap, (match c.2 with | .buf _ => false | _ => true) = true := by decide
  have hm := mem_registerMap h
  refine ⟨(hall _ hm).1, (hall _ hm).2.1, (hall _ hm).2.2, ?_⟩
  rintro a rfl
  exact absurd (hbuf _ hm) (by simp)

/-- A 4-byte access at a register's own offset reaches that register, in every instance. -/
theorem hostTarget_of_lookup {p : Config.Params} {off : Nat} {t : Target} (h : registerMap.lookup off = some t) :
    hostTarget p off .w4 = some t := by
  obtain ⟨hlt, h4, -⟩ := registerMap_bounds h
  simp [hostTarget, Width.bytes, h4, hlt, h]

/-- A read that is not refused returns what stands there. -/
theorem hostRead_of_open {s : State} {off : Nat} {n : Width} {t : Target} (h : hostTarget s.params off n = some t)
    (hg : s.busy = false ∨ t.gateExempt = true) : hostRead s off n = (.value (readTarget s n t), s) := by
  rcases hg with hg | hg <;> simp [hostRead, h, gated, hg]

/-- A write that is not refused has its effect. -/
theorem hostWrite_of_open {s : State} {off : Nat} {n : Width} {v : Word} {t : Target}
    (h : hostTarget s.params off n = some t) (hg : s.busy = false ∨ t.gateExempt = true) :
    hostWrite s off n v = (.ok, writeTarget s n v t) := by
  rcases hg with hg | hg <;> simp [hostWrite, h, gated, hg]

/-- A refused read returns 0 and sets HZ. -/
theorem hostRead_of_gated {s : State} {off : Nat} {n : Width} {t : Target} (h : hostTarget s.params off n = some t)
    (hb : s.busy = true) (hg : t.gateExempt = false) : hostRead s off n = (.value 0#32, s.setHazard) := by
  simp [hostRead, h, gated, hb, hg]

/-- A refused write only sets HZ. -/
theorem hostWrite_of_gated {s : State} {off : Nat} {n : Width} {v : Word} {t : Target}
    (h : hostTarget s.params off n = some t) (hb : s.busy = true) (hg : t.gateExempt = false) :
    hostWrite s off n v = (.ok, s.setHazard) := by
  simp [hostWrite, h, gated, hb, hg]

/-- No host write touches the queue, the record of answers or the parameters. -/
theorem hostWrite_keeps (s : State) (off : Nat) (n : Width) (v : Word) :
    (hostWrite s off n v).2.events = s.events ∧ (hostWrite s off n v).2.responses = s.responses ∧
      (hostWrite s off n v).2.params = s.params := by
  rcases hostWrite_cases s off n v with ⟨_, h⟩ | ⟨t, _, _, h⟩ | ⟨t, _, _, h⟩ <;> rw [h]
  · exact ⟨rfl, rfl, rfl⟩
  · exact ⟨rfl, rfl, rfl⟩
  · cases t with
    | ctrl => simp only [writeTarget, writeCtrl]; split <;> exact ⟨rfl, rfl, rfl⟩
    | status => simp only [writeTarget, writeStatus]; split <;> split <;> exact ⟨rfl, rfl, rfl⟩
    | operand r =>
      cases r with
      | segAddr i => fin_cases i <;> exact ⟨rfl, rfl, rfl⟩
      | segLen i => fin_cases i <;> exact ⟨rfl, rfl, rfl⟩
      | _ => exact ⟨rfl, rfl, rfl⟩
    | _ => exact ⟨rfl, rfl, rfl⟩

/-- Nor does a host read. -/
theorem hostRead_keeps (s : State) (off : Nat) (n : Width) :
    (hostRead s off n).2.events = s.events ∧ (hostRead s off n).2.responses = s.responses ∧
      (hostRead s off n).2.params = s.params := by
  rcases hostRead_cases s off n with ⟨_, h⟩ | ⟨t, _, _, h⟩ | ⟨t, _, _, h⟩ <;> rw [h] <;> exact ⟨rfl, rfl, rfl⟩

/-- With an empty queue the engine moves. -/
theorem step_of_empty {s : State} (h : s.events = []) : step s = engineStep s := by simp only [step, h]

/-- Otherwise the first event is taken, at the state without it. -/
theorem step_of_event {s : State} {e : Event} {es : List Event} (h : s.events = e :: es) :
    step s = takeEvent (s.popEvent es) e := by simp only [step, h]

/-- Everything the engine's step can do. -/
theorem engineStep_cases (s : State) :
    (s.busy = false ∧ engineStep s = .next s) ∨
    (s.busy = true ∧ (∃ e, decode s.cmd = .error e) ∧ engineStep s = .next (s.complete .illegalCommand)) ∨
    (s.busy = true ∧ ∃ i, decode s.cmd = .ok i ∧ engineStep s = exec i s) := by
  unfold engineStep fetch
  cases hb : s.busy with
  | false => exact .inl ⟨rfl, rfl⟩
  | true =>
    cases hd : decode s.cmd with
    | error e => exact .inr (.inl ⟨rfl, ⟨e, rfl⟩, rfl⟩)
    | ok i => exact .inr (.inr ⟨rfl, i, rfl, rfl⟩)

end Sys2Proof.Machine
end

