-- ==== Sys2Proof/Laws/PerInstr.lean ====
section
/-! SUPPORT. Per instruction: the fields of its word (30_encoding.md R91, R92). -/

namespace Sys2Proof.Laws.WordFields

/-- The word of a well-formed command has the OP of its row, its NSEG, and ZERO all zero. -/
def Statement (i : Instr) : Prop :=
  i.wellFormed = true →
    opField (encode i) = opcode i ∧ (nsegField (encode i)).toNat = nsegOperand i ∧ zeroField (encode i) = 0#21

theorem nop : Statement .nop := fun _ => by decide
theorem ecbEnc : Statement .ecbEnc := fun _ => by decide
theorem ecbDec : Statement .ecbDec := fun _ => by decide
theorem kwWrap : Statement .kwWrap := fun _ => by decide
theorem kwUnwrap : Statement .kwUnwrap := fun _ => by decide

theorem cmac (nseg : Nat) : Statement (.cmac nseg) := fun h => by
  have h4 : nseg ≤ 4 := by simpa [Instr.wellFormed] using h
  interval_cases nseg <;> decide

theorem ctr : Statement .ctr := fun _ => by decide
theorem eaxEnc : Statement .eaxEnc := fun _ => by decide
theorem eaxDec : Statement .eaxDec := fun _ => by decide
theorem cbcEnc : Statement .cbcEnc := fun _ => by decide
theorem cbcDec : Statement .cbcDec := fun _ => by decide
theorem zeroize : Statement .zeroize := fun _ => by decide

end Sys2Proof.Laws.WordFields
end

