-- ==== Sys2Proof/Tests/Slice0.lean ====
section
/-! SUPPORT. Tests with the words and values of 95_test_vectors.md and 96_more_vectors.md, and for every obligation that
has hypotheses a state that meets them. -/

namespace Sys2Proof.Machine.Tests

-- One theorem after another: each evaluates in the kernel, and every waiting one would hold a thread and its stack.
set_option Elab.async false

/-! ### Helpers -/

/-- Key loaded, a DATA region of `len` bytes at `addr`, `xs` written there, a command started. -/
def start (key : Block) (addr len : Nat) (xs : List Byte) : State :=
  { State.reset with
    key := key, keyw := 0xF#4, busy := true, data := ⟨BitVec.ofNat 32 addr, BitVec.ofNat 32 len⟩,
    buf := State.reset.buf.write addr xs }

/-- The next state. -/
def after : Answer → Option State
  | .next t => some t
  | .fault _ => none
  | .refused _ => none

/-- The machine goes on to a next state. -/
def next? (o : Answer) : Bool := (after o).isSome

/-- `start` before the CMD write. -/
def idle (key : Block) (addr len : Nat) (xs : List Byte) : State := { start key addr len xs with busy := false }

/-- STATUS and the bytes of the DATA region after a command. -/
def result (o : Answer) : Option (Word × List Byte) := (after o).map fun t => (t.statusWord, t.regionBytes t.data)

/-- STATUS and TAG after a command. -/
def tagResult (o : Answer) : Option (Word × Block) := (after o).map fun t => (t.statusWord, t.tag)

/-- STATUS after a command. -/
def status (o : Answer) : Option Word := (after o).map State.statusWord

/-- The keys of the vectors. -/
def keyA : Block := 0x000102030405060708090a0b0c0d0e0f#128
def keyB : Block := 0x2b7e151628aed2a6abf7158809cf4f3c#128

/-- M64 of 95_test_vectors.md section 4. -/
def m64 : List Byte :=
  beBytes 32 0x6bc1bee22e409f96e93d7e117393172aae2d8a571e03ac9c9eb76fac45af8e51 ++
    beBytes 32 0x30c81c46a35ce411e5fbc1191a0a52eff69f2445df4f9b17ad2b417be66c3710

/-! ### Syntax, encoding -/

/-- NSEG = 5 is ill formed; 4 is not (30_encoding.md R91). -/
theorem test_wellFormed_refuses : (Instr.cmac 5).wellFormed = false ∧ (Instr.cmac 4).wellFormed = true := by decide

/-- Every command's word, from the table of 30_encoding.md R92. -/
theorem test_decode_words :
    decode 0x00000000#32 = .ok .nop ∧ decode 0x00000010#32 = .ok .ecbEnc ∧ decode 0x00000011#32 = .ok .ecbDec ∧
      decode 0x00000020#32 = .ok .kwWrap ∧ decode 0x00000021#32 = .ok .kwUnwrap ∧
      decode 0x00000030#32 = .ok (.cmac 0) ∧ decode 0x00000430#32 = .ok (.cmac 4) ∧ decode 0x00000040#32 = .ok .ctr ∧
      decode 0x00000050#32 = .ok .eaxEnc ∧ decode 0x00000051#32 = .ok .eaxDec ∧ decode 0x00000060#32 = .ok .cbcEnc ∧
      decode 0x00000061#32 = .ok .cbcDec ∧ decode 0x000000F0#32 = .ok .zeroize := by decide

/-- The Illegal words of 96_more_vectors.md 8.1, by reason. -/
theorem test_decode_rejects :
    decode 0x00000100#32 = .error .strayNseg ∧ decode 0x00000001#32 = .error .reservedOp ∧
      decode 0x00000012#32 = .error .reservedOp ∧ decode 0x00000530#32 = .error .tooManySegments ∧
      decode 0x00000730#32 = .error .tooManySegments ∧ decode 0x00000830#32 = .error .zeroFieldSet ∧
      decode 0x80000010#32 = .error .zeroFieldSet ∧ decode 0x000000FF#32 = .error .reservedOp ∧
      decode 0x00000110#32 = .error .strayNseg := by decide

theorem test_encode_words :
    encode (.cmac 3) = 0x00000330#32 ∧ encode .eaxDec = 0x00000051#32 ∧ encode .zeroize = 0x000000F0#32 := by decide

/-- A placed word runs as the first command after reset (47_system.md R190: STATUS = 0x00000002). -/
theorem test_first_step : status (step (State.reset.withFetchWord 32 0x00000000)) = some 0x00000002#32 := by decide +kernel

/-- A placed keyed command without a key: 95_test_vectors.md 8.4. -/
theorem test_first_step_keyed : status (step (State.reset.withFetchWord 32 0x00000010)) = some 0x00000056#32 := by
  decide +kernel

/-! ### The functions -/

/-- 40_ecb.md R112: the four checks. -/
theorem test_gf : xtime 0x57#8 = 0xAE#8 ∧ xtime 0xAE#8 = 0x47#8 ∧ gfMul 0x57#8 0x13#8 = 0xFE#8 ∧ gfMul 0x57#8 0x83#8 = 0xC1#8 := by
  decide +kernel

/-- 40_ecb.md R121: round keys 1 and 10 of V-AES-2. -/
theorem test_key_schedule :
    ((roundKeys keyB)[0]?).map blockOfAesState = some 0xa0fafe1788542cb123a339392a6c7605#128 ∧
      ((roundKeys keyB)[9]?).map blockOfAesState = some 0xd014f9a8c9ee2589e13f0cc8b6630ca6#128 := by decide +kernel

/-- V-AES-2, V-AES-4, V-AES-8. -/
theorem test_aes : aesE keyB 0x3243f6a8885a308d313198a2e0370734#128 = 0x3925841d02dc09fbdc118597196a0b32#128 ∧
    aesE 0xffffffffffffffffffffffffffffffff#128 0#128 = 0xa1f6258c877d5fcd8964484538bfc92c#128 ∧
    aesE keyA keyA = 0x0a940bb5416ef045f1c39458c653ea5a#128 := by decide +kernel

/-- V-AESD-2, V-AESD-4. -/
theorem test_aes_inverse :
    aesDinv keyA 0x00112233445566778899aabbccddeeff#128 = 0x762a5ab50929189cefdb99434790aad8#128 ∧
      aesDinv 0xffffffffffffffffffffffffffffffff#128 0xffffffffffffffffffffffffffffffff#128 =
        0x179892489fbd2da4e73009226b5756c9#128 := by decide +kernel

/-- 42_cmac.md R151: the subkeys of keyB. -/
theorem test_subkeys : cmacL keyB = 0x7df76b0c1ab899b33e42f047b91b546f#128 ∧
    cmacK1 keyB = 0xfbeed618357133667c85e08f7236a8de#128 ∧ cmacK2 keyB = 0xf7ddac306ae266ccf90bc11ee46d513b#128 := by
  decide +kernel

/-! ### Commands -/

/-- V-ECB-3: the last sixteen bytes of BUF. -/
theorem test_ecbEnc : result (exec .ecbEnc (start keyB 0x1FFF0 16 (beBytes 16 0x3243f6a8885a308d313198a2e0370734))) =
    some (0x0000F00A#32, beBytes 16 0x3925841d02dc09fbdc118597196a0b32) := by decide +kernel

/-- V-ECB-7, V-ECB-9, V-ECB-10: a wrong length; out of range by one; a sum that does not wrap. -/
theorem test_ecb_failures : status (exec .ecbEnc (start keyA 0 15 [])) = some 0x0000F03E#32 ∧
    status (exec .ecbEnc (start keyA 0x1FFF1 16 [])) = some 0x0000F03E#32 ∧
    status (exec .ecbDec (start keyA 0xFFFFFFF0 16 [])) = some 0x0000F03E#32 := by decide +kernel

/-- V-ECB-2. -/
theorem test_ecbDec : result (exec .ecbDec (start keyA 0 16 (beBytes 16 0x69c4e0d86a7b0430d8cdb78070b4c55a))) =
    some (0x0000F00A#32, beBytes 16 0x00112233445566778899aabbccddeeff) := by decide +kernel

/-- V-KW-6: n = 3, unaligned, slot 0 never written. -/
theorem test_kwWrap : result (exec .kwWrap { start keyA 0x80D 32 (beBytes 24 0x00112233445566778899aabbccddeeff0001020304050607) with
      data := ⟨0x805#32, 32#32⟩ }) =
    some (0x0000F00A#32, beBytes 32 0x889671106535a9f86d9f9a262f674569efa38d7535aac77527cab92855bddd6e) := by decide +kernel

/-- V-KW-7: lengths 8, 20, and a region one slot too far. -/
theorem test_kw_failures : status (exec .kwUnwrap (start keyA 0 8 [])) = some 0x0000F03E#32 ∧
    status (exec .kwWrap (start keyA 0 20 [])) = some 0x0000F03E#32 ∧
    status (exec .kwWrap (start keyA 0x1FFF0 24 [])) = some 0x0000F03E#32 := by decide +kernel

/-- V-KW-1, the unwrap. -/
theorem test_kwUnwrap : result (exec .kwUnwrap (start keyA 0 24 (beBytes 24 0x1fa68b0a8112b447aef34bd8fb5a7b829d3e862371d2cfe5))) =
    some (0x0000F00A#32, beBytes 24 0xa6a6a6a6a6a6a6a600112233445566778899aabbccddeeff) := by decide +kernel

/-- V-KW-3: the last byte changed; the region is zeroed. -/
theorem test_kwUnwrap_mismatch :
    result (exec .kwUnwrap (start keyA 0 24 (beBytes 24 0x1fa68b0a8112b447aef34bd8fb5a7b829d3e862371d2cfe4))) =
      some (0x0000F01E#32, zeros 24) := by decide +kernel

/-- 41_keywrap.md R143: T(256) under both widths, the first step at which they differ. -/
theorem test_kwCounter : kwCounter .w64 256 = 0x0000000000000100#64 ∧ kwCounter .w8 256 = 0#64 ∧ kwCounter .w8 255 = 0xFF#64 := by
  decide

/-- V-CMAC-33: an empty segment at BUF_BYTES, and a segment that is not used. -/
theorem test_cmac : tagResult (exec (.cmac 3) { start keyB 0 0 m64 with
      seg0 := ⟨0x00#32, 7#32⟩, seg1 := ⟨0x20000#32, 0#32⟩, seg2 := ⟨0x07#32, 33#32⟩, seg3 := ⟨0xFFFFFFFF#32, 0xFFFFFFFF#32⟩ }) =
    some (0x0000F00A#32, 0xdfa66747de9ae63030ca32611497c827#128) := by decide +kernel

/-- V-CMAC-1 and V-CMAC-2, and a used segment out of range. -/
theorem test_cmac_short : tagResult (exec (.cmac 0) (start keyB 0 0 [])) = some (0x0000F00A#32, 0xbb1d6929e95937287fa37d129b756746#128) ∧
    tagResult (exec (.cmac 1) { start keyB 0 0 m64 with seg0 := ⟨0#32, 16#32⟩, seg1 := ⟨0x1FFF0#32, 17#32⟩ }) =
      some (0x0000F00A#32, 0x070a16b46b4d4144f79bdd9dd04a287c#128) ∧
    tagResult (exec (.cmac 2) { start keyB 0 0 m64 with seg0 := ⟨0#32, 16#32⟩, seg1 := ⟨0x1FFF0#32, 17#32⟩ }) =
      some (0x0000F03E#32, 0#128) := by decide +kernel

/-- V-CTR-2: a short last block; IV keeps its value. -/
theorem test_ctr : (after (exec .ctr { start keyB 0x100 20 (m64.take 20) with iv := 0xf0f1f2f3f4f5f6f7f8f9fafbfcfdfeff#128 })).map
      (fun t => (t.regionBytes t.data, t.iv)) =
    some (beBytes 20 0x874d6191b620e3261bef6864990db6ce9806f66b, 0xf0f1f2f3f4f5f6f7f8f9fafbfcfdfeff#128) := by decide +kernel

/-- V-CTR-5: the counter wraps. -/
theorem test_ctr_wraps : result (exec .ctr { start keyB 0 40 (zeros 40) with iv := 0xffffffffffffffffffffffffffffffff#128 }) =
    some (0x0000F00A#32, beBytes 40 0x8af2860142f786f409307c1a3f7eaaac7df76b0c1ab899b33e42f047b91b546f57127d4034b1bebf) := by
  decide +kernel

/-- V-EAX-1: nonce at 0x100, no header, DATA at 0x200. -/
def eaxStart (data : List Byte) (tag : Block) : State :=
  { start keyB 0x200 20 data with
    tag := tag, seg0 := ⟨0x100#32, 16#32⟩,
    buf := (State.reset.buf.write 0x100 (bytesOfBlock keyA)).write 0x200 data }

theorem test_eaxEnc : (after (exec .eaxEnc (eaxStart (m64.take 20) 0#128))).map (fun t => (t.regionBytes t.data, t.tag)) =
    some (beBytes 20 0xee8588fa30f8b9631edac695456a0a3259e290c1, 0x4e0f92f12676317971364224580ce1a7#128) := by decide +kernel

/-- V-EAX-1 under the other value of EAX_TWEAK_OFFSET: the same ciphertext, another tag. -/
theorem test_eaxEnc_byte15 : (after (exec .eaxEnc { eaxStart (m64.take 20) 0#128 with
      params := { Config.defaults with eaxTweakOffset := .byte15 } })).map (fun t => (t.regionBytes t.data, t.tag)) =
    some (beBytes 20 0xee8588fa30f8b9631edac695456a0a3259e290c1, 0xf66b32197489f32a54493cc7db54bf08#128) := by decide +kernel

/-- V-EAX-2, the correct tag. -/
theorem test_eaxDec : result (exec .eaxDec (eaxStart (beBytes 20 0xee8588fa30f8b9631edac695456a0a3259e290c1)
      0x4e0f92f12676317971364224580ce1a7#128)) = some (0x0000F00A#32, m64.take 20) := by decide +kernel

/-- V-EAX-2, byte 0 of the tag changed. -/
theorem test_eaxDec_mismatch : (after (exec .eaxDec (eaxStart (beBytes 20 0xee8588fa30f8b9631edac695456a0a3259e290c1)
      0x4f0f92f12676317971364224580ce1a7#128))).map (fun t => (t.statusWord, t.regionBytes t.data, t.tag)) =
    some (0x0000F02E#32, beBytes 20 0xee8588fa30f8b9631edac695456a0a3259e290c1, 0x4f0f92f12676317971364224580ce1a7#128) := by
  decide +kernel

/-- V-CBC-1, two blocks. -/
theorem test_cbcEnc : result (exec .cbcEnc { start keyB 0 32 (m64.take 32) with iv := keyA }) =
    some (0x0000F00A#32, beBytes 32 0x7649abac8119b246cee98e9b12e9197d5086cb9b507219ee95db113a917678b2) := by decide +kernel

/-- V-CBC-6 and V-CBC-5: length 20 is refused, length 0 succeeds. -/
theorem test_cbc_lengths : status (exec .cbcEnc (start keyB 0 20 [])) = some 0x0000F03E#32 ∧
    status (exec .cbcEnc (start keyB 0x20000 0 [])) = some 0x0000F00A#32 := by decide +kernel

/-- V-CBC-4: any bytes decrypt. -/
theorem test_cbcDec : result (exec .cbcDec { start keyB 0 32 (m64.take 32) with iv := keyA }) =
    some (0x0000F00A#32, beBytes 32 0x500496e109686a8b79626c7734fd8bfe96ec7cb87f8c6660acbebfabbd99c6fa) := by decide +kernel

/-- 47_system.md R190: NOP needs no key. -/
theorem test_nop : status (exec .nop State.reset) = some 0x00000002#32 := by decide +kernel

/-- 95_test_vectors.md 8.4: ZEROIZE keeps HZ, IE, CMD and DATA_LEN, clears the rest; IRQ = 1. -/
theorem test_zeroize : (after (exec .zeroize { start keyA 0 16 [0x55#8] with
      iv := 0xff#128, tag := 0xee#128, ie := true, hz := true, cmd := 0xF0#32 })).map
      (fun t => ([t.key, t.iv, t.tag], [t.buf.find 0, t.buf.find 0x1FFFF], [t.statusWord, t.data.len, t.cmd], t.irq)) =
    some ([0#128, 0#128, 0#128], [some 0#8, some 0#8], [0x00000102#32, 16#32, 0xF0#32], true) := by decide +kernel

/-! ### Decode, priority, bus, busy gate, resets -/

/-- 96_more_vectors.md 8.1: CBC_ENC with DATA_LEN 5, with and without a key; an illegal word without a key. -/
theorem test_priority : status (exec .cbcEnc (start keyA 0 5 [])) = some 0x0000F03E#32 ∧
    status (exec .cbcEnc { start keyA 0 5 [] with keyw := 0#4 }) = some 0x00000056#32 ∧
    status (step { start keyA 0 5 [] with keyw := 0#4, cmd := 0x12#32 }) = some 0x00000046#32 := by decide +kernel

/-- 96_more_vectors.md 8.2: ID, wrong widths, misalignment, reserved offsets, the end of the window. -/
theorem test_bus_responses : (hostRead State.reset 0x000 .w4).1 = .value 0x41455301#32 ∧
    (hostRead State.reset 0x008 .w1).1 = .busError ∧ (hostRead State.reset 0x00C .w2).1 = .busError ∧
    (hostRead State.reset 0x00A .w4).1 = .busError ∧ (hostRead State.reset 0x038 .w4).1 = .busError ∧
    (hostRead State.reset 0x070 .w4).1 = .busError ∧ (hostRead State.reset 0x1FFFC .w4).1 = .busError ∧
    (hostRead State.reset 0x20001 .w2).1 = .busError ∧ (hostRead State.reset 0x40000 .w4).1 = .busError := by decide +kernel

/-- 96_more_vectors.md 8.2: mixed widths at the start of BUF. -/
theorem test_bus_lanes :
    let s1 := (hostWrite State.reset 0x20000 .w4 0x33221100#32).2
    let s2 := (hostWrite s1 0x20003 .w1 0xAA#32).2
    (hostRead s1 0x20001 .w1).1 = .value 0x11#32 ∧ (hostRead s1 0x20002 .w2).1 = .value 0x3322#32 ∧
      (hostRead s2 0x20000 .w4).1 = .value 0xAA221100#32 := by decide +kernel

/-- 10_state.md R40, R41: the example key, loaded word by word through the bus. -/
theorem test_load_key :
    let s1 := (hostWrite State.reset 0x040 .w4 0x03020100#32).2
    let s2 := (hostWrite s1 0x044 .w4 0x07060504#32).2
    let s3 := (hostWrite s2 0x048 .w4 0x0B0A0908#32).2
    let s4 := (hostWrite s3 0x04C .w4 0x0F0E0D0C#32).2
    s4.key = keyA ∧ s3.keyw = 0x7#4 ∧ s4.keyw = 0xF#4 ∧ (hostRead s4 0x040 .w4).1 = .value 0#32 := by decide +kernel

/-- 96_more_vectors.md 8.2: CTRL takes IE only; 10_state.md R32: with both bits the reset wins. -/
theorem test_ctrl : (hostRead (hostWrite State.reset 0x004 .w4 0xFFFFFFFD#32).2 0x004 .w4).1 = .value 1#32 ∧
    (hostWrite { start keyA 0 16 [0x55#8] with busy := false } 0x004 .w4 0x3#32).2.ie = false ∧
    (hostWrite { start keyA 0 16 [0x55#8] with busy := false } 0x004 .w4 0x3#32).2.buf.find 0 = some 0x55#8 ∧
    (hostWrite (start keyA 0 16 [0x55#8]) 0x004 .w4 0x2#32).2.buf.find 0 = none := by decide +kernel

/-- 95_test_vectors.md P3, lines 21 and 22: a TAG read while BUSY returns 0 and sets HZ. -/
theorem test_busy_gate : (hostRead { start keyA 0 16 [] with tag := 1#128 } 0x060 .w4).1 = .value 0#32 ∧
    (hostRead (hostRead (start keyA 0 16 []) 0x060 .w4).2 0x008 .w4).1 = .value 0x0000F109#32 ∧
    (hostWrite (start keyA 0 16 []) 0x00C .w4 0x10#32).2.cmd = 0#32 := by decide +kernel

/-- 60_exceptions.md R210: the acknowledgement clears DONE and keeps ECODE. -/
theorem test_acknowledge : (hostWrite ((start keyA 0 5 []).complete .malformedLength) 0x008 .w4 0x2#32).2.statusWord =
    0x0000F03C#32 := by decide +kernel

/-- 70_reset_and_hazards.md R230: the hardware reset. -/
theorem test_hard_reset : (after (step { start keyA 0 16 [0x55#8] with events := [.hardReset] })).map
      (fun t => (t.statusWord, t.key, t.buf.find 0, t.params)) = some (0#32, 0#128, none, Config.defaults) := by decide +kernel

/-! ### A state that meets the hypotheses of each obligation, clause by clause -/

theorem witness_legal : State.reset.params.Legal ∧
    ({ Config.defaults with bufBytes := 64, bufOff := 0x1000 } : Config.Params).Legal ∧
    ({ Config.defaults with bufBytes := 2 ^ 31, bufOff := 2 ^ 31 } : Config.Params).Legal := by decide +kernel

theorem witness_invariant_reset : Invariant State.reset :=
  ⟨by decide +kernel, State.reset_buf_wf, by decide, by decide +kernel⟩

/-- A busy state with a byte of BUF written meets the invariant. -/
theorem witness_invariant_busy : Invariant (start keyA 0 16 [0x55#8]) :=
  ⟨by decide +kernel, Memory.write_wf State.reset_buf_wf (by decide), by decide, by decide +kernel⟩

theorem witness_StepKeepsParameters : next? (step State.reset) = true ∧
    next? (step { start keyA 0 16 [] with cmd := 0x10#32 }) = true ∧
    next? (step { State.reset with events := [.hardReset] }) = true := by decide +kernel

/-- The premises of StepKeepsInvariant together (with `witness_invariant_busy`). -/
theorem witness_StepKeepsInvariant : next? (step (start keyA 0 16 [0x55#8])) = true ∧ next? (step State.reset) = true := by
  decide +kernel

/-- A busy state with an event before the engine's turn, none of them a reset; and one with a reset. -/
theorem witness_StartedCommandCompletes :
    ({ start keyA 0 16 [] with events := [.read 0x008 .w4, .engine] } : State).busy = true ∧
      (∀ e ∈ [Event.read 0x008 .w4, .engine], e ≠ .hardReset) ∧ ¬ IsSoftReset (.read 0x008 .w4) ∧ ¬ IsSoftReset .engine ∧
      IsSoftReset (.write 0x004 .w4 0x2#32) :=
  ⟨rfl, by decide, (by rintro ⟨v, h, _⟩; cases h), (by rintro ⟨v, h, _⟩; cases h), ⟨_, rfl, by decide⟩⟩

theorem witness_CtrlRegister : (0x1#32).getLsbD 1 = false ∧ (0x3#32).getLsbD 1 = true ∧
    ({ State.reset with ie := true } : State).ie = true ∧ State.reset.ie = false := by decide

/-- The premises of StatusRegister's last clause (with `witness_invariant_busy`). -/
theorem witness_StatusRegister : (start keyA 0 16 [0x55#8]).busy = true := rfl

/-- CmdRegister, OperandRegisters, SixteenByteRegisters, KeyLoading, SoftReset: idle and busy. -/
theorem witness_idle_and_busy : State.reset.busy = false ∧ (start keyA 0 16 []).busy = true ∧ (0x2#32).getLsbD 1 = true := by
  decide

/-- KeyLoading's other clauses: a step that leaves a KEYW bit set and one that sets it; a keyed command without a key; a
command that is not ZEROIZE. -/
theorem witness_KeyLoading : (after (step (start keyA 0 16 []))).map (fun t => t.keyw.getLsbD 3) = some true ∧
    (after (step { State.reset with events := [.write 0x04C .w4 7#32] })).map (fun t => t.keyw.getLsbD 3) = some true ∧
    State.reset.keyw ≠ 0b1111#4 ∧ needsKey .ctr = true ∧ Instr.nop ≠ .zeroize ∧ next? (exec .nop State.reset) = true := by
  decide +kernel

/-- BufWindow at the ends of BUF, every width. -/
theorem witness_BufWindow : State.reset.params.Legal ∧ State.reset.busy = false ∧
    0 + Width.bytes .w4 ≤ State.reset.params.bufBytes ∧ 0 % Width.bytes .w4 = 0 ∧
    0x1FFFC + Width.bytes .w4 ≤ State.reset.params.bufBytes ∧ 0x1FFFC % Width.bytes .w4 = 0 ∧
    0x1FFFE + Width.bytes .w2 ≤ State.reset.params.bufBytes ∧ 0x1FFFE % Width.bytes .w2 = 0 ∧
    0x1FFFF + Width.bytes .w1 ≤ State.reset.params.bufBytes ∧ 0x1FFFF % Width.bytes .w1 = 0 := by decide +kernel

/-- BusErrorExactlyWhenMalformed: both branches on either side of each boundary. -/
theorem witness_BusErrorExactlyWhenMalformed : State.reset.params.Legal ∧
    (hostTarget State.reset.params 0x034 .w4).isSome = true ∧ hostTarget State.reset.params 0x038 .w4 = none ∧
    hostTarget State.reset.params 0x03C .w4 = none ∧ (hostTarget State.reset.params 0x040 .w4).isSome = true ∧
    (hostTarget State.reset.params 0x06C .w4).isSome = true ∧ hostTarget State.reset.params 0x070 .w4 = none ∧
    hostTarget State.reset.params 0x1FFFF .w1 = none ∧ (hostTarget State.reset.params 0x20000 .w1).isSome = true ∧
    (hostTarget State.reset.params 0x3FFFF .w1).isSome = true ∧ hostTarget State.reset.params 0x40000 .w1 = none ∧
    hostTarget State.reset.params 0x034 .w2 = none ∧ hostTarget State.reset.params 0x3FFFF .w2 = none := by decide +kernel

/-- BusyGate on either side of offset 0x00C. -/
theorem witness_BusyGate : (start keyA 0 16 []).busy = true ∧
    hostTarget (start keyA 0 16 []).params 0x008 .w4 = some .status ∧
    hostTarget (start keyA 0 16 []).params 0x00C .w4 = some .cmd ∧
    hostTarget (start keyA 0 16 []).params 0x20000 .w1 = some (.buf 0) := by decide +kernel

theorem witness_BusyKeepsWhatTheCommandSees :
    ({ start keyA 0 16 [] with events := [.write 0x010 .w4 7#32] } : State).busy = true ∧
      Event.write 0x010 .w4 7#32 ≠ .engine ∧ Event.write 0x010 .w4 7#32 ≠ .hardReset ∧
      ¬ IsSoftReset (.write 0x010 .w4 7#32) :=
  ⟨rfl, by decide, by decide, (by rintro ⟨v, h, _⟩; simp at h)⟩

/-- ResetLeavesSpecValues: a reset that is next, in a busy state. -/
theorem witness_ResetLeavesSpecValues :
    ({ start keyA 0 16 [] with events := [.hardReset] } : State).events = .hardReset :: [] := rfl

/-- KeyIsNotReadable: a read of KEY and a write of KEY, next in the queue. -/
theorem witness_KeyIsNotReadable :
    ({ idle keyA 0 16 [] with events := [.read 0x040 .w4] } : State).events = Event.read 0x040 .w4 :: [] ∧
      Event.read 0x040 .w4 ≠ .engine ∧
    ({ idle keyA 0 16 [] with events := [.write 0x040 .w4 7#32] } : State).events = Event.write 0x040 .w4 7#32 :: [] ∧
      Event.write 0x040 .w4 7#32 ≠ .engine := by decide

/-- InterruptLine, clause by clause. -/
theorem witness_InterruptLine : next? (exec .nop { State.reset with ie := true }) = true ∧ State.reset.ie = false ∧
    (0x2#32).getLsbD 1 = true ∧ State.reset.busy = false ∧ (0x1#32).getLsbD 0 = true ∧ (0x1#32).getLsbD 1 = false := by
  decide +kernel

/-- KeyScheduleFollowsTheLoop and SboxFollowsItsFormula at the ends of their ranges: i = 4, i = 43; a = 0x7F, a = 0x80. -/
theorem witness_cipher_ranges : (4 ≤ 4 ∧ 4 < 44 ∧ 4 % 4 = 0) ∧ (4 ≤ 43 ∧ 43 < 44 ∧ 43 % 4 ≠ 0) ∧
    xtime 0x7F#8 = 0xFE#8 ∧ xtime 0x80#8 = 0x1B#8 := by decide

/-- 40_ecb.md R118, R119: the rule's own column, both ways. -/
theorem test_mix_column : mixColumn ⟨0xd4#8, 0xbf#8, 0x5d#8, 0x30#8⟩ = ⟨0x04#8, 0x66#8, 0x81#8, 0xe5#8⟩ ∧
    invMixColumn ⟨0x04#8, 0x66#8, 0x81#8, 0xe5#8⟩ = ⟨0xd4#8, 0xbf#8, 0x5d#8, 0x30#8⟩ := by decide +kernel

theorem witness_DecodeOfEncode : (Instr.cmac 4).wellFormed = true ∧ Instr.nop.wellFormed = true := by decide

theorem witness_EncodeOfDecode : decode 0x00000430#32 = .ok (.cmac 4) := by decide

/-- StepRunsTheDecodedCommand, clause by clause: busy and idle with an empty queue and with the engine's turn next; a queued
read, write and hardware reset. -/
theorem witness_StepRunsTheDecodedCommand :
    let s := { start keyA 0 16 [] with cmd := 0x10#32 }
    let withEvents (es : List Event) : State := { s with events := es }
    s.busy = true ∧ decode s.cmd = .ok .ecbEnc ∧ s.events = [] ∧ (withEvents [.engine]).events = .engine :: [] ∧
      State.reset.busy = false ∧ State.reset.events = [] ∧
      ({ State.reset with events := [.engine] } : State).events = .engine :: [] ∧
      (withEvents [.read 0x008 .w4]).events = .read 0x008 .w4 :: [] ∧
      (withEvents [.write 0x004 .w4 1#32]).events = .write 0x004 .w4 1#32 :: [] ∧
      (withEvents [.hardReset]).events = .hardReset :: [] := by decide

/-- 10_state.md R20: with BUSY = 0 the engine's turn runs nothing, though a legal word stands in CMD. -/
theorem test_idle_engine : (after (step { State.reset with cmd := 0xF0#32, tag := 1#128, events := [.engine] })).map
    (fun t => (t.statusWord, t.tag)) = some (0#32, 1#128) := by decide +kernel

/-- 96_more_vectors.md 8.2 through the queue: a word written to BUF, a byte read back, both answered, newest first. -/
theorem test_queued_access :
    ((after (step { State.reset with events := [.write 0x20000 .w4 0x33221100#32, .read 0x20001 .w1] })).bind
      fun t => after (step t)).map (fun u => (u.responses, u.events)) = some ([.value 0x11#32, .ok], []) := by decide +kernel

theorem witness_PlacedWordRunsNext : decodeTableWord 32 0x00000430 = some (.cmac 4) := by decide

theorem witness_IllegalWordCompletes :
    let s := { start keyA 0 16 [] with cmd := 0x530#32 }
    s.busy = true ∧ decode s.cmd = .error .tooManySegments ∧ s.events = [] ∧
      ({ s with events := [.engine] } : State).events = [.engine] := by decide

theorem witness_KeyNotLoadedFailure : (Instr.cmac 4).wellFormed = true ∧ needsKey (.cmac 4) = true ∧
    ¬ ({ start keyA 0 5 [] with keyw := 0x7#4 } : State).keyLoaded := by decide

/-- MalformedLengthFailure: each way to fail, and the premise of the second clause. -/
theorem witness_MalformedLengthFailure : Instr.wellFormed .cbcEnc = true ∧ (start keyA 0 5 []).keyLoaded ∧
    ¬ WellLaid .cbcEnc (start keyA 0 5 []) ∧ ¬ WellLaid .ctr (start keyA 0x20001 0 []) ∧
    (after (exec .cbcEnc (start keyA 0 5 []))).map (fun t => t.ecode) = some .malformedLength :=
  ⟨rfl, rfl, fun h => absurd (show (start keyA 0 5 []).data.len.toNat % 16 = 0 from h.1) (by decide),
    fun h => absurd (h.2 (start keyA 0x20001 0 []).data (by simp [usedRegions])) (by decide +kernel), by decide +kernel⟩

/-- CodePriority: the engine's two ways to move while busy, an illegal word and a legal one, and the premise of each code. -/
theorem witness_CodePriority : (start keyA 0 5 []).busy = true ∧ (start keyA 0 5 []).events = [] ∧
    ({ start keyA 0 5 [] with events := [.engine] } : State).events = .engine :: [] ∧ decode 0x12#32 = .error .reservedOp ∧
    decode 0x40#32 = .ok .ctr ∧ (needsKey .ctr = true ∧ ¬ State.reset.keyLoaded) ∧
    ¬ (needsKey .ctr = true ∧ ¬ (start keyA 0x20000 0 []).keyLoaded) ∧ WellLaid .ctr (start keyA 0x20000 0 []) :=
  ⟨rfl, rfl, rfl, by decide, by decide, by decide, by decide, trivial, by simp only [usedRegions, List.forall_mem_singleton]; decide +kernel⟩

/-- FailuresArePrecise: a failure of each kind. CommandFrame: a next state of each kind. -/
theorem witness_FailuresArePrecise :
    (after (exec .eaxDec (start keyB 0 0 []))).map (fun t => t.ecode) = some .tagMismatch ∧
    (after (exec .kwUnwrap (start keyA 0 16 (zeros 16)))).map (fun t => t.ecode) = some .integrityMismatch ∧
    next? (exec .ctr (start keyA 0 1 (zeros 1))) = true ∧ next? (exec .zeroize State.reset) = true := by decide +kernel

/-- ECB: key not loaded; loaded but one byte too far; loaded and the last block of BUF. -/
theorem witness_ecb : ¬ State.reset.keyLoaded ∧ (start keyA 0x1FFF1 16 []).keyLoaded ∧
    ¬ ((start keyA 0x1FFF1 16 []).data.len.toNat = 16 ∧ (start keyA 0x1FFF1 16 []).fits (start keyA 0x1FFF1 16 []).data) ∧
    (start keyA 0x1FFF0 16 []).data.len.toNat = 16 ∧ (start keyA 0x1FFF0 16 []).fits (start keyA 0x1FFF0 16 []).data := by
  decide +kernel

/-- EcbDecCommand's last clause: an ECB_ENC and an ECB_DEC after it, with success. -/
theorem witness_ecb_restores :
    ((after (exec .ecbEnc (start keyA 0 16 (zeros 16)))).bind fun t => after (exec .ecbDec t)).map (fun u => u.ecode) =
      some .ok := by decide +kernel

theorem witness_StepCounterWidths : 255 ≤ 255 ∧ (List.replicate 42 (0#64 : Semi)).length ≤ 42 := by decide

/-- KW: length 8; the smallest and the largest region. -/
theorem witness_kw :
    ¬ ((start keyA 0 8 []).data.len.toNat % 8 = 0 ∧ 16 ≤ (start keyA 0 8 []).data.len.toNat ∧
      (start keyA 0 8 []).fits (start keyA 0 8 []).data) ∧
    ((start keyA 0 16 []).keyLoaded ∧ (start keyA 0 16 []).data.len.toNat % 8 = 0 ∧
      16 ≤ (start keyA 0 16 []).data.len.toNat ∧ (start keyA 0 16 []).fits (start keyA 0 16 []).data) ∧
    ((start keyA 0 0x20000 []).data.len.toNat % 8 = 0 ∧ 16 ≤ (start keyA 0 0x20000 []).data.len.toNat ∧
      (start keyA 0 0x20000 []).fits (start keyA 0 0x20000 []).data) := by decide +kernel

/-- CMAC: five segments; four that fit; the fourth one byte too long. -/
theorem witness_CmacCommand : 4 < 5 ∧
    (∀ r ∈ [(start keyB 0 0 []).seg0, ⟨0#32, 0x20000#32⟩, ⟨0x20000#32, 0#32⟩, ⟨0x1FFFF#32, 1#32⟩].take 4,
      (start keyB 0 0 []).fits r) ∧
    ¬ (start keyB 0 0 []).fits ⟨0x1FFFF#32, 2#32⟩ ∧ (start keyB 0 0 []).keyLoaded := by
  refine ⟨by decide, ?_, by decide +kernel, rfl⟩
  simp only [List.take_succ_cons, List.take_zero, List.forall_mem_cons]
  exact ⟨by decide +kernel, by decide +kernel, by decide +kernel, by decide +kernel, by simp⟩

theorem witness_CounterIncrement : (zeros 16).length = 16 := by decide

/-- CTR: an empty region at the end of BUF, and past it. -/
theorem witness_CtrCommand : (start keyB 0x20000 0 []).keyLoaded ∧
    (start keyB 0x20000 0 []).fits (start keyB 0x20000 0 []).data ∧
    ¬ (start keyB 0x20001 0 []).fits (start keyB 0x20001 0 []).data := by decide +kernel

/-- EAX: the three regions fit, nonce and header lie apart from DATA; a nonce that runs out of BUF. -/
theorem witness_eax :
    let s := eaxStart (m64.take 20) 0#128
    s.keyLoaded ∧ s.fits s.data ∧ s.fits s.seg0 ∧ s.fits s.seg1 ∧ Apart s.seg0 s.data ∧ Apart s.seg1 s.data ∧
      ¬ s.fits ⟨0x1FFF8#32, 16#32⟩ := by decide +kernel

/-- EaxDecCommand's two premises on the tag: V-EAX-2 with the right tag and with a wrong one. -/
theorem witness_EaxDecCommand :
    let c := beBytes 20 0xee8588fa30f8b9631edac695456a0a3259e290c1
    eaxTag .byte0 keyB (bytesOfBlock keyA) [] c = 0x4e0f92f12676317971364224580ce1a7#128 ∧
      eaxTag .byte0 keyB (bytesOfBlock keyA) [] c ≠ 0x4f0f92f12676317971364224580ce1a7#128 := by decide +kernel

theorem witness_CbcFollowsItsRule : (m64.take 32).length % 16 = 0 ∧ 1 < (m64.take 32).length / 16 ∧
    ([] : List Byte).length % 16 = 0 := by decide +kernel

/-- CBC: length 20; an empty region; the last block of BUF. -/
theorem witness_cbc :
    ¬ ((start keyB 0 20 []).data.len.toNat % 16 = 0 ∧ (start keyB 0 20 []).fits (start keyB 0 20 []).data) ∧
    ((start keyB 0x20000 0 []).keyLoaded ∧ (start keyB 0x20000 0 []).data.len.toNat % 16 = 0 ∧
      (start keyB 0x20000 0 []).fits (start keyB 0x20000 0 []).data) ∧
    ((start keyB 0x1FFF0 16 []).data.len.toNat % 16 = 0 ∧
      (start keyB 0x1FFF0 16 []).fits (start keyB 0x1FFF0 16 []).data) := by decide +kernel

theorem witness_DecryptUndoesEncrypt :
    (Instr.cbcEnc, Instr.cbcDec) ∈ [(Instr.ecbEnc, Instr.ecbDec), (.cbcEnc, .cbcDec), (.ctr, .ctr)] ∧
      (start keyB 0x1FFF0 16 []).keyLoaded ∧ WellLaid .cbcEnc (start keyB 0x1FFF0 16 []) ∧
      WellLaid .ecbEnc (start keyB 0x1FFF0 16 []) ∧ WellLaid .ctr (start keyB 0x1FFF0 16 []) := by
  have hfit : ∀ r ∈ [(start keyB 0x1FFF0 16 []).data], (start keyB 0x1FFF0 16 []).fits r := by
    rw [List.forall_mem_singleton]; decide +kernel
  exact ⟨by decide, rfl, ⟨by show _ % 16 = 0; decide, hfit⟩, ⟨by show _ = 16; decide, hfit⟩, trivial, hfit⟩

theorem witness_ZeroizeCommand : Instr.wellFormed (.cmac 4) = true ∧ needsKey (.cmac 4) = true ∧ 0x1FFFF < State.reset.params.bufBytes := by
  decide +kernel

end Sys2Proof.Machine.Tests
end

/-! SUPPORT. Fields of a bus word, and the bytes of a 16-byte register through its words (10_state.md R40). -/

namespace Sys2Proof

theorem getLsbD_eq_of_div {w : Word} {i : Nat} {b : Bool} (h : w.toNat / 2 ^ i % 2 = b.toNat) : w.getLsbD i = b := by
  rw [BitVec.getLsbD, Nat.testBit_eq_decide_div_mod_eq, h]
  cases b <;> rfl

theorem extractLsb'_eq_of_div {w : Word} {i n : Nat} {x : BitVec n} (h : w.toNat / 2 ^ i % 2 ^ n = x.toNat) :
    w.extractLsb' i n = x := by
  apply BitVec.eq_of_toNat_eq
  rw [BitVec.extractLsb'_toNat, Nat.shiftRight_eq_div_pow, h]

/-- The lane rule read off a register. -/
theorem laneByte_wordOfBlock (b : Block) (w : Fin 4) {k : Nat} (hk : k < 4) :
    laneByte (wordOfBlock b w) k = byteOfBlock b (4 * w.val + k) := by
  have hlane : laneByte (wordOfBlock b w) k = laneByte (quarter b w.val) (3 - k) := by
    unfold wordOfBlock
    interval_cases k <;> simp
  have hstart : 32 * (3 - w.val) + 8 * (3 - k) = 8 * (15 - (4 * w.val + k)) := by omega
  rw [hlane, laneByte, quarter, byteOfBlock, ← hstart]
  ext j hj
  have hin : 8 * (3 - k) + j < 32 := by omega
  simp [hin, Nat.add_assoc]

/-- The lane rule for a write: word w holds bytes 4w to 4w + 3, and the others stay. -/
theorem byteOfBlock_setWordOfBlock (b : Block) (w : Fin 4) (v : Word) {k : Nat} (hk : k < 16) :
    byteOfBlock (setWordOfBlock b w v) k = if k / 4 = w.val then laneByte v (k % 4) else byteOfBlock b k := by
  have hbyte (c : Block) : byteOfBlock c k = laneByte (wordOfBlock c ⟨k / 4, by omega⟩) (k % 4) := by
    rw [laneByte_wordOfBlock c _ (Nat.mod_lt k (by decide)), Nat.div_add_mod]
  rw [hbyte, hbyte]
  split
  · next h =>
    rw [show (⟨k / 4, by omega⟩ : Fin 4) = w from Fin.ext h, wordOfBlock_setWordOfBlock]
  · next h =>
    rw [wordOfBlock_setWordOfBlock_of_ne b v (fun he => h (congrArg Fin.val he))]

end Sys2Proof

/-! SUPPORT. The data functions keep the length of the DATA region. -/

namespace Sys2Proof.Machine

theorem cbcEncBlocks_length (key : Block) (n : Nat) (ch : Block) (d : List Byte) :
    (cbcEncBlocks key n ch d).length = 16 * n := by
  induction n generalizing ch d with
  | zero => rfl
  | succ n ih => simp [cbcEncBlocks, ih]; omega

theorem cbcDecBlocks_length (key : Block) (n : Nat) (ch : Block) (d : List Byte) :
    (cbcDecBlocks key n ch d).length = 16 * n := by
  induction n generalizing ch d with
  | zero => rfl
  | succ n ih => simp [cbcDecBlocks, ih]; omega

theorem ctrBlocks_length (key : Block) (n : Nat) (c : Block) (d : List Byte) :
    (ctrBlocks key n c d).length = min (16 * n) d.length := by
  induction n generalizing c d with
  | zero => simp [ctrBlocks]
  | succ n ih => simp [ctrBlocks, ih]; omega

theorem ctrx_length (key c0 : Block) (d : List Byte) : (ctrx key c0 d).length = d.length := by
  rw [ctrx, ctrBlocks_length]
  omega

theorem wrapRound_length (width : Config.KwTWidth) (key : Block) (base i : Nat) (a : Semi) (rs : List Semi) :
    (wrapRound width key base i a rs).2.length = rs.length := by
  induction rs generalizing i a with
  | nil => rfl
  | cons r rs ih => simp [wrapRound, ih]

theorem unwrapRound_length (width : Config.KwTWidth) (key : Block) (base i : Nat) (a : Semi) (rs : List Semi) :
    (unwrapRound width key base i a rs).2.length = rs.length := by
  induction rs generalizing i a with
  | nil => rfl
  | cons r rs ih => simp [unwrapRound, ih]

theorem wrapRounds_length (width : Config.KwTWidth) (key : Block) (js : List Nat) (ar : Semi × List Semi) :
    (wrapRounds width key js ar).2.length = ar.2.length := by
  induction js generalizing ar with
  | nil => rfl
  | cons j js ih => exact (ih _).trans (wrapRound_length ..)

theorem unwrapRounds_length (width : Config.KwTWidth) (key : Block) (js : List Nat) (ar : Semi × List Semi) :
    (unwrapRounds width key js ar).2.length = ar.2.length := by
  induction js generalizing ar with
  | nil => rfl
  | cons j js ih => exact (ih _).trans (unwrapRound_length ..)

theorem slotsOfBytes_length (n : Nat) (xs : List Byte) : (slotsOfBytes n xs).length = n := by
  induction n generalizing xs with
  | zero => rfl
  | succ n ih => simp [slotsOfBytes, ih]

theorem bytesOfSlots_length (rs : List Semi) : (bytesOfSlots rs).length = 8 * rs.length := by
  induction rs with
  | nil => rfl
  | cons r rs ih =>
    rw [bytesOfSlots, List.flatMap_cons, ← bytesOfSlots, List.length_append, ih, bytesOfSemi_length, List.length_cons]
    omega

end Sys2Proof.Machine

/-! SUPPORT. Once for all twelve commands: everything a command can leave. -/

namespace Sys2Proof.Machine

/-- Everything a command can leave, by command. -/
inductive Completes (s : State) : Instr → State → Prop
  | nop : Completes s .nop (s.complete .ok)
  | zeroized : Completes s .zeroize (s.zeroized.complete .ok)
  /-- Every failure but IntegrityMismatch touches STATUS alone (60_exceptions.md R209). -/
  | failed {i : Instr} {c : ECode} (hc : c ∈ [.illegalCommand, .keyNotLoaded, .malformedLength] ∨
      (i = .eaxDec ∧ c = .tagMismatch)) : Completes s i (s.complete c)
  | dataWritten {i : Instr} {xs : List Byte}
      (hi : i ∈ [.ecbEnc, .ecbDec, .kwWrap, .kwUnwrap, .ctr, .eaxDec, .cbcEnc, .cbcDec]) (hxs : xs.length = s.data.len.toNat) :
      Completes s i ((s.putBytes s.data.addr.toNat xs).complete .ok)
  /-- KW_UNWRAP that finds the wrong constant. -/
  | dataZeroed : Completes s .kwUnwrap
      ((s.putBytes s.data.addr.toNat (zeros s.data.len.toNat)).complete .integrityMismatch)
  | tagWritten {n : Nat} {g : Block} : Completes s (.cmac n) ((s.putTag g).complete .ok)
  | dataAndTagWritten {xs : List Byte} {g : Block} (hxs : xs.length = s.data.len.toNat) :
      Completes s .eaxEnc (((s.putBytes s.data.addr.toNat xs).putTag g).complete .ok)

theorem Completes.of_requireKey {s t : State} {i : Instr} {k : Answer}
    (hk : k = .next t → Completes s i t) (h : requireKey s k = .next t) : Completes s i t := by
  rcases requireKey_next h with ⟨-, h⟩ | ⟨-, rfl⟩
  · exact hk h
  · exact .failed (.inl (by decide))

theorem Completes.of_requireRegions {s t : State} {i : Instr} {rs : List Region} {k : Answer}
    (hk : k = .next t → Completes s i t) (h : requireRegions rs s k = .next t) : Completes s i t := by
  rcases requireRegions_next h with ⟨-, h⟩ | ⟨-, rfl⟩
  · exact hk h
  · exact .failed (.inl (by decide))

theorem Completes.of_requireForm {s t : State} {i : Instr} {b : Bool} {k : Answer}
    (hk : b = true → k = .next t → Completes s i t) (h : requireForm b s k = .next t) : Completes s i t := by
  rcases requireForm_next h with ⟨hb, h⟩ | ⟨-, rfl⟩
  · exact hk hb h
  · exact .failed (.inl (by decide))

theorem Completes.of_transformData {s t : State} {i : Instr} {f : List Byte → List Byte}
    (hi : i ∈ [.ecbEnc, .ecbDec, .kwWrap, .kwUnwrap, .ctr, .eaxDec, .cbcEnc, .cbcDec])
    (hf : ∀ x, x.length = s.data.len.toNat → (f x).length = s.data.len.toNat)
    (h : transformData s f = .next t) : Completes s i t := by
  obtain ⟨-, rfl⟩ := transformData_next h
  exact .dataWritten hi (hf _ (s.regionBytes_length _))

theorem Completes.of_ecbChecks {s t : State} {i : Instr} {g : List Byte → Block} (hi : i = .ecbEnc ∨ i = .ecbDec)
    (h : ecbChecks s (transformData s fun x => bytesOfBlock (g x)) = .next t) : Completes s i t := by
  refine .of_requireKey (.of_requireForm fun hl => .of_requireRegions ?_) h
  have hlen : s.data.len.toNat = 16 := congrArg BitVec.toNat (beq_iff_eq.1 hl)
  exact .of_transformData (by rcases hi with rfl | rfl <;> decide) fun x _ => by rw [bytesOfBlock_length, hlen]

theorem Completes.of_cbcChecks {s t : State} {i : Instr} {f : List Byte → List Byte} (hi : i = .cbcEnc ∨ i = .cbcDec)
    (hf : ∀ x, (f x).length = 16 * (x.length / 16)) (h : cbcChecks s (transformData s f) = .next t) :
    Completes s i t := by
  refine .of_requireKey (.of_requireForm fun hl => .of_requireRegions ?_) h
  have hlen : s.data.len.toNat % 16 = 0 := of_decide_eq_true hl
  exact .of_transformData (by rcases hi with rfl | rfl <;> decide) fun x hx => by rw [hf, hx]; omega

theorem execCtr_completes {s t : State} (h : execCtr s = .next t) : Completes s .ctr t :=
  .of_requireKey (.of_requireRegions (.of_transformData (by decide) fun x hx => by rw [ctrx_length, hx])) h

theorem execKwWrap_completes {s t : State} (h : execKwWrap s = .next t) : Completes s .kwWrap t := by
  refine .of_requireKey (.of_requireForm fun hl => .of_requireRegions fun h => ?_) h
  have hlen : s.data.len.toNat % 8 = 0 ∧ 16 ≤ s.data.len.toNat := of_decide_eq_true hl
  obtain ⟨-, h⟩ := memRead_next h
  obtain ⟨-, h⟩ := memWrite_next h
  cases h
  refine .dataWritten (by decide) ?_
  rw [bytesOfSlots_length, List.length_cons, kwWrap, wrapRounds_length, slotsOfBytes_length, kwCount]
  omega

theorem execKwUnwrap_completes {s t : State} (h : execKwUnwrap s = .next t) : Completes s .kwUnwrap t := by
  refine .of_requireKey (.of_requireForm fun hl => .of_requireRegions fun h => ?_) h
  have hlen : s.data.len.toNat % 8 = 0 ∧ 16 ≤ s.data.len.toNat := of_decide_eq_true hl
  obtain ⟨-, h⟩ := memRead_next h
  obtain ⟨-, h⟩ := memRead_next h
  dsimp only at h
  split at h
  · obtain ⟨-, h⟩ := memWrite_next h
    cases h
    refine .dataWritten (by decide) ?_
    rw [bytesOfSlots_length, List.length_cons, kwUnwrap, unwrapRounds_length, slotsOfBytes_length, kwCount]
    omega
  · obtain ⟨-, h⟩ := memWrite_next h
    cases h
    exact .dataZeroed

theorem execCmac_completes {s t : State} {n : Nat} (h : execCmac n s = .next t) : Completes s (.cmac n) t := by
  unfold execCmac at h
  split at h
  · cases h
    exact .failed (.inl (by decide))
  · refine .of_requireKey (.of_requireRegions fun h => ?_) h
    obtain ⟨-, h⟩ := readRegions_next h
    cases h
    exact .tagWritten

theorem eaxInputs_next {s t : State} {k : List Byte → List Byte → List Byte → Answer} (h : eaxInputs s k = .next t) :
    k (s.regionBytes s.seg0) (s.regionBytes s.seg1) (s.regionBytes s.data) = .next t :=
  (readRegion_next (readRegion_next (readRegion_next h).2).2).2

theorem execEaxEnc_completes {s t : State} (h : execEaxEnc s = .next t) : Completes s .eaxEnc t := by
  refine .of_requireKey (.of_requireRegions fun h => ?_) h
  obtain ⟨-, h⟩ := memWrite_next (eaxInputs_next h)
  cases h
  exact .dataAndTagWritten (by rw [eaxEncrypt, eaxCtr, ctrx_length, s.regionBytes_length])

theorem eaxDecrypt_length {off : Config.EaxTweakOffset} {key tag : Block} {nonce header c d : List Byte}
    (h : eaxDecrypt off key nonce header c tag = some d) : d.length = c.length := by
  obtain ⟨-, h⟩ := Option.ite_none_right_eq_some.1 h
  cases h
  exact ctrx_length ..

theorem execEaxDec_completes {s t : State} (h : execEaxDec s = .next t) : Completes s .eaxDec t := by
  refine .of_requireKey (.of_requireRegions fun h => ?_) h
  have h := eaxInputs_next h
  split at h
  · next d hd =>
    obtain ⟨-, h⟩ := memWrite_next h
    cases h
    exact .dataWritten (by decide) (by rw [eaxDecrypt_length hd, s.regionBytes_length])
  · cases h
    exact .failed (.inr ⟨rfl, rfl⟩)

/-- The one inversion of `exec`. -/
theorem exec_completes {i : Instr} {s t : State} (h : exec i s = .next t) : Completes s i t := by
  cases i with
  | nop => cases h; exact .nop
  | ecbEnc => exact .of_ecbChecks (.inl rfl) h
  | ecbDec => exact .of_ecbChecks (.inr rfl) h
  | kwWrap => exact execKwWrap_completes h
  | kwUnwrap => exact execKwUnwrap_completes h
  | cmac n => exact execCmac_completes h
  | ctr => exact execCtr_completes h
  | eaxEnc => exact execEaxEnc_completes h
  | eaxDec => exact execEaxDec_completes h
  | cbcEnc => exact .of_cbcChecks (.inl rfl) (fun _ => cbcEncBlocks_length ..) h
  | cbcDec => exact .of_cbcChecks (.inr rfl) (fun _ => cbcDecBlocks_length ..) h
  | zeroize => cases h; exact .zeroized

end Sys2Proof.Machine

/-! SUPPORT. What a completion leaves, the access rules of the registers, and what sets KEYW. -/

namespace Sys2Proof.Machine

/-! ### Completions -/

theorem Completes.busy_done_eq {i : Instr} {s t : State} (h : Completes s i t) : t.busy = false ∧ t.done = true := by
  cases h <;> exact ⟨rfl, rfl⟩

theorem Completes.ie_eq {i : Instr} {s t : State} (h : Completes s i t) : t.ie = s.ie := by
  cases h <;> rfl

theorem Completes.key_keyw_eq {i : Instr} {s t : State} (h : Completes s i t) (hi : i ≠ .zeroize) :
    t.key = s.key ∧ t.keyw = s.keyw := by
  cases h with
  | zeroized => exact absurd rfl hi
  | _ => exact ⟨rfl, rfl⟩

theorem Completes.keyw_eq_or_zero {i : Instr} {s t : State} (h : Completes s i t) : t.keyw = s.keyw ∨ t.keyw = 0#4 := by
  cases h with
  | zeroized => exact .inr rfl
  | _ => exact .inl rfl

/-- The key check stands first in every keyed command (60_exceptions.md R208). -/
theorem exec_eq_requireKey {i : Instr} (s : State) (hw : i.wellFormed = true) (hk : needsKey i = true) :
    ∃ k, exec i s = requireKey s k := by
  cases i with
  | nop | zeroize => cases hk
  | cmac n =>
    have hn : ¬ 4 < n := by simpa [Instr.wellFormed] using hw
    exact ⟨_, if_neg hn⟩
  | _ => exact ⟨_, rfl⟩

theorem exec_of_not_keyLoaded {i : Instr} {s : State} (hw : i.wellFormed = true) (hk : needsKey i = true)
    (hs : ¬ s.keyLoaded) : exec i s = .next (s.complete .keyNotLoaded) := by
  obtain ⟨k, h⟩ := exec_eq_requireKey s hw hk
  rw [h, requireKey_of_not hs]

/-! ### The access rule of each register (10_state.md R31 to R34, R40 to R43) -/

theorem hostRead_register {s : State} {off : Nat} {t : Target} (h : registerMap.lookup off = some t)
    (hg : s.busy = false ∨ t.gateExempt = true) : hostRead s off .w4 = (.value (readTarget s .w4 t), s) :=
  hostRead_of_open (hostTarget_of_lookup h) hg

theorem hostWrite_register {s : State} {off : Nat} {v : Word} {t : Target} (h : registerMap.lookup off = some t)
    (hg : s.busy = false ∨ t.gateExempt = true) : hostWrite s off .w4 v = (.ok, writeTarget s .w4 v t) :=
  hostWrite_of_open (hostTarget_of_lookup h) hg

theorem hostRead_id (s : State) : hostRead s 0x000 .w4 = (.value s.params.idValue, s) :=
  hostRead_register (t := .id) rfl (.inr rfl)

theorem hostWrite_id (s : State) (v : Word) : hostWrite s 0x000 .w4 v = (.ok, s) :=
  hostWrite_register (t := .id) rfl (.inr rfl)

theorem State.ctrlWord_eq (s : State) : s.ctrlWord = if s.ie then 1#32 else 0#32 := by
  unfold State.ctrlWord
  cases s.ie <;> rfl

theorem hostRead_ctrl (s : State) : hostRead s 0x004 .w4 = (.value (if s.ie then 1#32 else 0#32), s) := by
  rw [← s.ctrlWord_eq]
  exact hostRead_register (t := .ctrl) rfl (.inr rfl)

theorem writeTarget_ctrl (s : State) (n : Width) (v : Word) :
    writeTarget s n v .ctrl = if v.getLsbD 1 then s.softReset else s.setIe (v.getLsbD 0) := rfl

theorem hostWrite_ctrl_of_clear {s : State} {v : Word} (h : v.getLsbD 1 = false) :
    hostWrite s 0x004 .w4 v = (.ok, s.setIe (v.getLsbD 0)) := by
  rw [hostWrite_register (t := .ctrl) rfl (.inr rfl), writeTarget_ctrl, h]
  rfl

/-- The reset wins over the new IE (10_state.md R32). -/
theorem hostWrite_ctrl_of_set {s : State} {v : Word} (h : v.getLsbD 1 = true) :
    hostWrite s 0x004 .w4 v = (.ok, s.softReset) := by
  rw [hostWrite_register (t := .ctrl) rfl (.inr rfl), writeTarget_ctrl, h]
  rfl

theorem hostRead_status (s : State) : hostRead s 0x008 .w4 = (.value s.statusWord, s) :=
  hostRead_register (t := .status) rfl (.inr rfl)

theorem writeTarget_status (s : State) (n : Width) (v : Word) : writeTarget s n v .status =
    { s with done := if v.getLsbD 1 then false else s.done, hz := if v.getLsbD 8 then false else s.hz } := by
  simp only [writeTarget, writeStatus]
  cases v.getLsbD 1 <;> cases v.getLsbD 8 <;> rfl

theorem hostWrite_status (s : State) (v : Word) : hostWrite s 0x008 .w4 v =
    (.ok, { s with done := if v.getLsbD 1 then false else s.done, hz := if v.getLsbD 8 then false else s.hz }) := by
  rw [← writeTarget_status s .w4 v]
  exact hostWrite_register (t := .status) rfl (.inr rfl)

theorem hostRead_cmd {s : State} (h : s.busy = false) : hostRead s 0x00C .w4 = (.value s.cmd, s) :=
  hostRead_register (t := .cmd) rfl (.inl h)

theorem hostWrite_cmd {s : State} (h : s.busy = false) (w : Word) : hostWrite s 0x00C .w4 w = (.ok, s.accept w) :=
  hostWrite_register (t := .cmd) rfl (.inl h)

theorem registerMap_key (w : Fin 4) : registerMap.lookup (0x040 + 4 * w.val) = some (.key w) := by
  revert w; decide

theorem registerMap_iv (w : Fin 4) : registerMap.lookup (0x050 + 4 * w.val) = some (.iv w) := by
  revert w; decide

theorem registerMap_tag (w : Fin 4) : registerMap.lookup (0x060 + 4 * w.val) = some (.tag w) := by
  revert w; decide

theorem hostRead_key {s : State} (hb : s.busy = false) (w : Fin 4) :
    hostRead s (0x040 + 4 * w.val) .w4 = (.value 0#32, s) := hostRead_register (registerMap_key w) (.inl hb)

theorem hostWrite_key {s : State} (hb : s.busy = false) (w : Fin 4) (v : Word) :
    hostWrite s (0x040 + 4 * w.val) .w4 v = (.ok, s.putKeyWord w v) := hostWrite_register (registerMap_key w) (.inl hb)

theorem hostRead_iv {s : State} (hb : s.busy = false) (w : Fin 4) :
    hostRead s (0x050 + 4 * w.val) .w4 = (.value (wordOfBlock s.iv w), s) :=
  hostRead_register (registerMap_iv w) (.inl hb)

theorem hostWrite_iv {s : State} (hb : s.busy = false) (w : Fin 4) (v : Word) :
    hostWrite s (0x050 + 4 * w.val) .w4 v = (.ok, s.putIvWord w v) := hostWrite_register (registerMap_iv w) (.inl hb)

theorem hostRead_tag {s : State} (hb : s.busy = false) (w : Fin 4) :
    hostRead s (0x060 + 4 * w.val) .w4 = (.value (wordOfBlock s.tag w), s) :=
  hostRead_register (registerMap_tag w) (.inl hb)

theorem hostWrite_tag {s : State} (hb : s.busy = false) (w : Fin 4) (v : Word) :
    hostWrite s (0x060 + 4 * w.val) .w4 v = (.ok, s.putTagWord w v) := hostWrite_register (registerMap_tag w) (.inl hb)

theorem eq_of_registerMap_key {off : Nat} {w : Fin 4} (h : registerMap.lookup off = some (.key w)) :
    off = 0x040 + 4 * w.val := by
  have hall : ∀ c ∈ registerMap, ∀ w : Fin 4, c.2 = .key w → c.1 = 0x040 + 4 * w.val := by decide
  exact hall _ (mem_registerMap h) w rfl

theorem hostTarget_key {p : Config.Params} {off : Nat} {n : Width} {w : Fin 4} (h : hostTarget p off n = some (.key w)) :
    off = 0x040 + 4 * w.val ∧ n = .w4 := by
  rcases hostTarget_some h with ⟨-, hn, hl⟩ | ⟨-, -, -, hb⟩
  · exact ⟨eq_of_registerMap_key hl, hn⟩
  · cases hb

/-! ### The STATUS word (10_state.md R33) -/

theorem State.statusWord_fields (s : State) :
    s.statusWord.getLsbD 0 = s.busy ∧ s.statusWord.getLsbD 1 = s.done ∧ s.statusWord.getLsbD 2 = s.err ∧
      s.statusWord.getLsbD 3 = s.keyv ∧ s.statusWord.extractLsb' 4 4 = s.ecode.code ∧ s.statusWord.getLsbD 8 = s.hz ∧
      s.statusWord.extractLsb' 9 3 = 0#3 ∧ s.statusWord.extractLsb' 12 4 = s.keyw ∧
      s.statusWord.extractLsb' 16 16 = 0#16 := by
  have hb := s.busy.toNat_le
  have hd := s.done.toNat_le
  have he := s.err.toNat_le
  have hv := s.keyv.toNat_le
  have hc := s.ecode.code.isLt
  have hz := s.hz.toNat_le
  have hw := s.keyw.isLt
  have h3 : (0#3).toNat = 0 := rfl
  have h16 : (0#16).toNat = 0 := rfl
  have hs : s.statusWord.toNat = s.busy.toNat + 2 * s.done.toNat + 4 * s.err.toNat + 8 * s.keyv.toNat +
      16 * s.ecode.code.toNat + 256 * s.hz.toNat + 4096 * s.keyw.toNat := Nat.mod_eq_of_lt (by omega)
  refine ⟨getLsbD_eq_of_div ?_, getLsbD_eq_of_div ?_, getLsbD_eq_of_div ?_, getLsbD_eq_of_div ?_,
    extractLsb'_eq_of_div ?_, getLsbD_eq_of_div ?_, extractLsb'_eq_of_div ?_, extractLsb'_eq_of_div ?_,
    extractLsb'_eq_of_div ?_⟩ <;> omega

theorem State.err_iff (s : State) : s.err = true ↔ s.ecode ≠ .ok := bne_iff_ne

theorem State.keyv_iff (s : State) : s.keyv = true ↔ s.keyw = 0xF#4 := beq_iff_eq

theorem State.statusWord_hardReset (s : State) : s.hardReset.statusWord = 0#32 := by
  simp [State.statusWord, State.err, State.keyv, ECode.code]

/-! ### What sets a KEYW bit (10_state.md R41) -/

theorem putKeyWord_keyw_getLsbD (s : State) (w : Fin 4) (v : Word) (w' : Fin 4) :
    (s.putKeyWord w v).keyw.getLsbD w' = (s.keyw.getLsbD w' || decide (w' = w)) := by
  have hone : ∀ w w' : Fin 4, (1#4 <<< w.val).getLsbD w' = decide (w' = w) := by decide
  rw [State.putKeyWord_keyw, BitVec.getLsbD_or, hone]

theorem writeOperand_keyw (s : State) (r : OperandReg) (v : Word) : (writeOperand s r v).keyw = s.keyw := by
  cases r with
  | dataAddr | dataLen => rfl
  | segAddr i | segLen i => fin_cases i <;> rfl

/-- A write keeps KEYW, clears it (the soft reset), or is a write of a KEY word. -/
theorem writeTarget_keyw (s : State) (n : Width) (v : Word) (x : Target) :
    (writeTarget s n v x).keyw = s.keyw ∨ (writeTarget s n v x).keyw = 0#4 ∨
      ∃ w, x = .key w ∧ writeTarget s n v x = s.putKeyWord w v := by
  cases x with
  | ctrl =>
    rw [writeTarget_ctrl]
    split
    · exact .inr (.inl rfl)
    · exact .inl rfl
  | status => exact .inl (by rw [writeTarget_status])
  | operand r => exact .inl (writeOperand_keyw s r v)
  | key w => exact .inr (.inr ⟨w, rfl, rfl⟩)
  | id | cmd | iv w | tag w | buf a => exact .inl rfl

/-- Only a write of KEY word w of an idle CORE sets KEYW bit w. -/
theorem hostWrite_sets_keyw {s : State} {off : Nat} {n : Width} {v : Word} {w : Fin 4}
    (h : (hostWrite s off n v).2.keyw.getLsbD w = true) :
    s.keyw.getLsbD w = true ∨ (s.busy = false ∧ off = 0x040 + 4 * w.val ∧ n = .w4) := by
  rcases hostWrite_cases s off n v with ⟨-, he⟩ | ⟨x, -, -, he⟩ | ⟨x, hx, hg, he⟩ <;> rw [he] at h
  · exact .inl h
  · exact .inl h
  · rcases writeTarget_keyw s n v x with hk | hk | ⟨w', rfl, hk⟩
    · exact .inl (hk ▸ h)
    · rw [hk] at h
      simp at h
    · rw [hk, putKeyWord_keyw_getLsbD, Bool.or_eq_true, decide_eq_true_eq] at h
      rcases h with h | rfl
      · exact .inl h
      · exact .inr ⟨by simpa [gated, Target.gateExempt] using hg, hostTarget_key hx⟩

theorem hostRead_keyw (s : State) (off : Nat) (n : Width) : (hostRead s off n).2.keyw = s.keyw := by
  rcases hostRead_cases s off n with ⟨-, h⟩ | ⟨x, -, -, h⟩ | ⟨x, -, -, h⟩ <;> simp [h]

theorem engineStep_keyw {s t : State} (h : engineStep s = .next t) : t.keyw = s.keyw ∨ t.keyw = 0#4 := by
  rcases engineStep_cases s with ⟨-, he⟩ | ⟨-, -, he⟩ | ⟨-, i, -, he⟩ <;> rw [he] at h
  · cases h; exact .inl rfl
  · cases h; exact .inl rfl
  · exact (exec_completes h).keyw_eq_or_zero

theorem engineStep_sets_no_keyw {s t : State} {w : Nat} (h : engineStep s = .next t) (hw : t.keyw.getLsbD w = true) :
    s.keyw.getLsbD w = true := by
  rcases engineStep_keyw h with hk | hk <;> rw [hk] at hw
  · exact hw
  · simp at hw

/-- No step sets a KEYW bit but that write. -/
theorem step_sets_keyw {s t : State} {w : Fin 4} (h : step s = .next t) (hw : t.keyw.getLsbD w = true) :
    s.keyw.getLsbD w = true ∨ (s.busy = false ∧ ∃ v es, s.events = .write (0x040 + 4 * w.val) .w4 v :: es) := by
  cases he : s.events with
  | nil =>
    rw [step_of_empty he] at h
    exact .inl (engineStep_sets_no_keyw h hw)
  | cons e es =>
    rw [step_of_event he] at h
    cases e with
    | read off n =>
      cases h
      rw [respond_keyw, hostRead_keyw] at hw
      exact .inl hw
    | write off n v =>
      cases h
      rcases hostWrite_sets_keyw hw with hw | ⟨hb, rfl, rfl⟩
      · exact .inl hw
      · exact .inr ⟨hb, v, es, rfl⟩
    | hardReset =>
      cases h
      simp at hw
    | engine => exact .inl (engineStep_sets_no_keyw (s := s.popEvent es) h hw)

end Sys2Proof.Machine

/-! The statements of 10_state.md R31 to R34, R40, R41 and R46. -/

namespace Sys2Proof.Machine

/-- Settles O8: ID is outside the busy gate and a write to it has no effect. -/
theorem idRegister : Obligations.IdRegister :=
  fun s v => ⟨hostRead_id s, hostWrite_id s v, rfl⟩

/-- Settles O9, from the two access rules of CTRL; it is outside the busy gate. -/
theorem ctrlRegister : Obligations.CtrlRegister := by
  intro s v
  refine ⟨⟨hostRead_ctrl s, fun h => ?_, fun h => ?_⟩, hostWrite_ctrl_of_clear,
    fun h => ⟨hostWrite_ctrl_of_set h, rfl⟩, hostRead_ctrl s.hardReset⟩
  · simp [State.irq, h]
  · simp [State.irq, h]

/-- Settles O11, by the busy gate on both sides. -/
theorem cmdRegister : Obligations.CmdRegister := by
  refine fun s w => ⟨fun hb => ⟨hostWrite_cmd hb w, hostRead_cmd hb⟩, fun hb => ?_, hostRead_cmd rfl⟩
  have ht : hostTarget s.params 0x00C .w4 = some .cmd := hostTarget_of_lookup rfl
  exact ⟨hostWrite_of_gated ht hb rfl, hostRead_of_gated ht hb rfl⟩

/-- Settles O10, from the fields of the STATUS word and the write rule. -/
theorem statusRegister : Obligations.StatusRegister := by
  intro s v
  refine ⟨⟨s.statusWord, hostRead_status s, ?_⟩, ⟨_, hostWrite_status s v, rfl, fun hinv hbusy => ?_⟩, ?_, ?_⟩
  · obtain ⟨hbusy, hdone, herr, hkeyv, hrest⟩ := s.statusWord_fields
    rw [herr, hkeyv]
    exact ⟨hbusy, hdone, s.err_iff, s.keyv_iff, hrest⟩
  · simp [(hinv.busyFresh hbusy).1]
  · rw [hostRead_status, State.statusWord_hardReset]
  · rw [hostRead_status]
    simp [State.statusWord, State.err, State.keyv, ECode.code]

/-- Settles O13: a word write of a 16-byte register is `setWordOfBlock`. -/
theorem sixteenByteRegisters : Obligations.SixteenByteRegisters := by
  refine ⟨fun s w v hb => ⟨?_, ?_, ?_⟩, by decide⟩
  · exact ⟨_, hostWrite_key hb w v, rfl, fun k => byteOfBlock_setWordOfBlock s.key w v⟩
  · refine ⟨_, hostWrite_iv hb w v, rfl, fun k => byteOfBlock_setWordOfBlock s.iv w v, ?_⟩
    rw [hostRead_iv (s := s.putIvWord w v) hb, State.putIvWord_iv, wordOfBlock_setWordOfBlock]
  · refine ⟨_, hostWrite_tag hb w v, rfl, fun k => byteOfBlock_setWordOfBlock s.tag w v, ?_⟩
    rw [hostRead_tag (s := s.putTagWord w v) hb, State.putTagWord_tag, wordOfBlock_setWordOfBlock]

/-- Settles O14: the one access that sets KEYW, the key check of the keyed commands, and what a command can write. -/
theorem keyLoading : Obligations.KeyLoading := by
  refine ⟨fun s w v hb => ⟨hostRead_key hb w, ?_⟩, fun s t w => step_sets_keyw,
    fun i s hw hk => exec_of_not_keyLoaded hw hk, fun i s t hi h => ((exec_completes h).key_keyw_eq hi).1⟩
  exact ⟨_, hostWrite_key hb w v, fun k => byteOfBlock_setWordOfBlock s.key w v, putKeyWord_keyw_getLsbD s w v⟩

/-- Settles O21, from the access rules of CTRL, STATUS and CMD and from what a completion leaves. -/
theorem interruptLine : Obligations.InterruptLine := by
  refine ⟨fun s => rfl, fun i s t h => ?_, fun s v h0 h1 => ?_, fun s v h1 => ?_, fun s w hb => ?_, fun s v h1 => ?_,
    fun s => rfl, fun s v h0 h1 => ?_⟩
  · have hc := exec_completes h
    rw [State.irq, hc.ie_eq, hc.busy_done_eq.2, Bool.and_true]
  · rw [hostWrite_ctrl_of_clear h1, h0]
    exact ⟨rfl, rfl⟩
  · rw [hostWrite_status, h1]
    exact Bool.and_false s.ie
  · rw [hostWrite_cmd hb]
    exact Bool.and_false s.ie
  · rw [hostWrite_ctrl_of_set h1]
    rfl
  · rw [hostWrite_ctrl_of_clear h1, h0]
    rfl

end Sys2Proof.Machine

/-! SUPPORT. Which accesses reach nothing (20_memory.md R64, R65), and which targets pass the busy gate (R66). -/

namespace Sys2Proof.Machine

theorem hostRead_of_unmapped {s : State} {off : Nat} {n : Width} (h : hostTarget s.params off n = none) :
    hostRead s off n = (.busError, s) := by
  simp only [hostRead, h]

theorem hostWrite_of_unmapped {s : State} {off : Nat} {n : Width} {v : Word} (h : hostTarget s.params off n = none) :
    hostWrite s off n v = (.busError, s) := by
  simp only [hostWrite, h]

theorem Width.bytes_le_four (n : Width) : n.bytes ≤ 4 := by cases n <;> decide

/-- The only words below 0x070 without a register are 0x038 and 0x03C (10_state.md R30). -/
theorem registerMap_lookup_eq_none_iff {off : Nat} (hlt : off < 0x070) (h4 : off % 4 = 0) :
    registerMap.lookup off = none ↔ 0x038 ≤ off ∧ off < 0x040 := by
  have hall : ∀ off < 0x070, off % 4 = 0 → (registerMap.lookup off = none ↔ 0x038 ≤ off ∧ off < 0x040) := by decide
  exact hall off hlt h4

theorem hostTarget_eq_none_iff_of_lt {p : Config.Params} {off : Nat} {n : Width} (hlt : off < 0x070) :
    hostTarget p off n = none ↔ off % n.bytes ≠ 0 ∨ n ≠ .w4 ∨ (0x038 ≤ off ∧ off < 0x040) := by
  by_cases hn : n = .w4
  · subst hn
    by_cases h4 : off % 4 = 0
    · rw [← registerMap_lookup_eq_none_iff hlt h4]
      simp [hostTarget, Width.bytes, hlt, h4]
    · simp [hostTarget, Width.bytes, h4]
  · simp [hostTarget, hlt, hn]

theorem hostTarget_eq_none_iff_of_ge {p : Config.Params} {off : Nat} {n : Width} (hge : 0x070 ≤ off) :
    hostTarget p off n = none ↔
      off % n.bytes ≠ 0 ∨ off < p.bufOff ∨ p.bufOff + p.bufBytes < off + n.bytes := by
  by_cases hal : off % n.bytes = 0
  · simp only [hostTarget, hal, Nat.not_lt.mpr hge, ne_eq, not_true_eq_false, if_false, false_or, ite_eq_right_iff,
      reduceCtorEq, imp_false]
    omega
  · simp [hostTarget, hal]

/-- The accesses that get BusError, of the registers and of the window together: in a legal instance the window starts
behind the registers, so that no register access runs past it. -/
theorem hostTarget_eq_none_iff {p : Config.Params} (hp : p.Legal) (off : Nat) (n : Width) :
    hostTarget p off n = none ↔ off % n.bytes ≠ 0 ∨ (off < 0x070 ∧ n ≠ .w4) ∨ (0x038 ≤ off ∧ off < 0x040) ∨
      (0x070 ≤ off ∧ off < p.bufOff) ∨ p.bufOff + p.bufBytes < off + n.bytes := by
  obtain ⟨-, -, -, hoff, -⟩ := hp
  have hn := n.bytes_le_four
  rcases Nat.lt_or_ge off 0x070 with hlt | hge
  · rw [hostTarget_eq_none_iff_of_lt hlt]
    have hwin : ¬ p.bufOff + p.bufBytes < off + n.bytes := by omega
    simp [hlt, hwin, Nat.not_le.mpr hlt]
  · rw [hostTarget_eq_none_iff_of_ge hge]
    have hres : ¬ off < 0x040 := by omega
    simp [hge, hres, Nat.not_lt.mpr hge]

/-- A mapped access passes the busy gate exactly below 0x00C, where ID, CTRL and STATUS stand. -/
theorem gateExempt_iff_of_hostTarget {p : Config.Params} {off : Nat} {n : Width} {x : Target}
    (h : hostTarget p off n = some x) : x.gateExempt = true ↔ off < 0x00C := by
  rcases hostTarget_some h with ⟨-, -, hl⟩ | ⟨hge, -, -, rfl⟩
  · obtain ⟨-, -, hgate, -⟩ := registerMap_bounds hl
    exact hgate.symm
  · simp only [Target.gateExempt, Bool.false_eq_true, false_iff]
    omega

end Sys2Proof.Machine

/-! The statements of 20_memory.md R64 and R66. -/

namespace Sys2Proof.Machine

/-- Settles O16: an access gets BusError where it reaches no target, and every other one is answered by what it reaches or
by the busy gate. -/
theorem busErrorExactlyWhenMalformed : Obligations.BusErrorExactlyWhenMalformed := by
  intro s off n v hp
  split
  next h =>
    have hx := (hostTarget_eq_none_iff hp off n).mpr h
    exact ⟨hostRead_of_unmapped hx, hostWrite_of_unmapped hx⟩
  next h =>
    obtain ⟨x, hx⟩ := Option.ne_none_iff_exists'.mp (mt (hostTarget_eq_none_iff hp off n).mp h)
    by_cases hg : s.busy = false ∨ x.gateExempt = true
    · rw [hostRead_of_open hx hg, hostWrite_of_open hx hg]
      exact ⟨⟨_, rfl⟩, rfl, .inl rfl⟩
    · obtain ⟨hb, he⟩ : s.busy = true ∧ x.gateExempt = false := by simpa using hg
      rw [hostRead_of_gated hx hb he, hostWrite_of_gated hx hb he]
      exact ⟨⟨_, rfl⟩, rfl, .inr ⟨hb, rfl⟩⟩

/-- Settles O17: the offset of a mapped access decides whether its target passes the busy gate. -/
theorem busyGate : Obligations.BusyGate := by
  intro s off n v x hb hx
  have hgate := gateExempt_iff_of_hostTarget hx
  split
  next h =>
    have he : s.busy = false ∨ x.gateExempt = true := .inr (hgate.mpr h)
    exact ⟨hostRead_of_open hx he, hostWrite_of_open hx he⟩
  next h =>
    have he : x.gateExempt = false := Bool.eq_false_iff.mpr (mt hgate.mp h)
    exact ⟨hostRead_of_gated hx hb he, hostWrite_of_gated hx hb he⟩

end Sys2Proof.Machine

/-! SUPPORT. Decoding as the inverse of encoding (30_encoding.md R91, R92, R94), through the three fields of a word. -/

namespace Sys2Proof

/-- ZERO, NSEG and OP make up the whole word. -/
theorem word_eq_of_fields {w w' : Word} (hop : opField w = opField w') (hn : nsegField w = nsegField w')
    (hz : zeroField w = zeroField w') : w = w' := by
  have hsplit (v : Word) : zeroField v ++ nsegField v ++ opField v = v := by
    unfold zeroField nsegField opField
    ext j hj
    grind
  rw [← hsplit w, hop, hn, hz, hsplit w']

theorem wordFields_encode {i : Instr} (h : i.wellFormed = true) :
    opField (encode i) = opcode i ∧ (nsegField (encode i)).toNat = nsegOperand i ∧ zeroField (encode i) = 0#21 := by
  cases i with
  | nop => exact Laws.WordFields.nop h
  | ecbEnc => exact Laws.WordFields.ecbEnc h
  | ecbDec => exact Laws.WordFields.ecbDec h
  | kwWrap => exact Laws.WordFields.kwWrap h
  | kwUnwrap => exact Laws.WordFields.kwUnwrap h
  | cmac n => exact Laws.WordFields.cmac n h
  | ctr => exact Laws.WordFields.ctr h
  | eaxEnc => exact Laws.WordFields.eaxEnc h
  | eaxDec => exact Laws.WordFields.eaxDec h
  | cbcEnc => exact Laws.WordFields.cbcEnc h
  | cbcDec => exact Laws.WordFields.cbcDec h
  | zeroize => exact Laws.WordFields.zeroize h

/-- The word of a well-formed command is the one word with its fields. -/
theorem encode_eq_iff_fields {w : Word} {i : Instr} (h : i.wellFormed = true) :
    encode i = w ↔ opField w = opcode i ∧ (nsegField w).toNat = nsegOperand i ∧ zeroField w = 0#21 := by
  obtain ⟨hop, hn, hz⟩ := wordFields_encode h
  constructor
  · rintro rfl
    exact ⟨hop, hn, hz⟩
  · rintro ⟨hop', hn', hz'⟩
    exact word_eq_of_fields (hop.trans hop'.symm) (BitVec.eq_of_toNat_eq (hn.trans hn'.symm)) (hz.trans hz'.symm)

/-- What a row of the table but for CMAC says of its command. -/
theorem fields_of_plainOps_lookup {op : BitVec 8} {i : Instr} (h : plainOps.lookup op = some i) :
    i.wellFormed = true ∧ opcode i = op ∧ nsegOperand i = 0 := by
  have hrows : ∀ c ∈ plainOps, c.2.wellFormed = true ∧ opcode c.2 = c.1 ∧ nsegOperand c.2 = 0 := by decide
  obtain ⟨above, below, hl, -⟩ := List.lookup_eq_some_iff.mp h
  exact hrows (op, i) (by simp [hl])

/-- Every command but CMAC has its row. -/
theorem plainOps_lookup_opcode {i : Instr} (h : ∀ n, i ≠ .cmac n) :
    opcode i ≠ cmacOp ∧ nsegOperand i = 0 ∧ plainOps.lookup (opcode i) = some i := by
  cases i with
  | cmac n => exact absurd rfl (h n)
  | nop | ecbEnc | ecbDec | kwWrap | kwUnwrap | ctr | eaxEnc | eaxDec | cbcEnc | cbcDec | zeroize => decide

/-- The decoder by the fields of the word. -/
theorem decode_eq_ok_iff_fields {w : Word} {i : Instr} :
    decode w = .ok i ↔ i.wellFormed = true ∧
      opField w = opcode i ∧ (nsegField w).toNat = nsegOperand i ∧ zeroField w = 0#21 := by
  unfold decode
  constructor
  · intro h
    split at h
    · cases h
    · next hz =>
      have hzero := not_not.mp hz
      split at h
      · next hop =>
        split at h
        · next h4 =>
          cases h
          exact ⟨decide_eq_true h4, hop, rfl, hzero⟩
        · cases h
      · split at h
        · cases h
        · next hn =>
          split at h
          · next hl =>
            cases h
            obtain ⟨hw, hop, hseg⟩ := fields_of_plainOps_lookup hl
            exact ⟨hw, hop.symm, by rw [hseg, not_not.mp hn, BitVec.toNat_zero], hzero⟩
          · cases h
  · rintro ⟨hw, hop, hn, hz⟩
    by_cases hc : ∃ n, i = .cmac n
    · obtain ⟨n, rfl⟩ := hc
      have h4 : n ≤ 4 := of_decide_eq_true hw
      simp [hz, hop, hn, opcode, nsegOperand, h4]
    · obtain ⟨hne, hseg, hl⟩ := plainOps_lookup_opcode (not_exists.mp hc)
      have hn0 : nsegField w = 0#3 := BitVec.eq_of_toNat_eq (hn.trans hseg)
      simp [hz, hop, hn0, hne, hl]

/-- The decoder answers a command exactly for the word of that command, which is well formed. -/
theorem decode_eq_ok_iff {w : Word} {i : Instr} : decode w = .ok i ↔ i.wellFormed = true ∧ encode i = w := by
  rw [decode_eq_ok_iff_fields]
  exact and_congr_right fun h => (encode_eq_iff_fields h).symm

/-- The sixteen well-formed commands, in the order of the table of 30_encoding.md R92. -/
def legalCommands : List Instr :=
  [.nop, .ecbEnc, .ecbDec, .kwWrap, .kwUnwrap, .cmac 0, .cmac 1, .cmac 2, .cmac 3, .cmac 4, .ctr, .eaxEnc, .eaxDec,
    .cbcEnc, .cbcDec, .zeroize]

theorem mem_legalCommands_iff {i : Instr} : i ∈ legalCommands ↔ i.wellFormed = true := by
  cases i with
  | cmac n =>
    have hn : .cmac n ∈ legalCommands ↔ n = 0 ∨ n = 1 ∨ n = 2 ∨ n = 3 ∨ n = 4 := by simp [legalCommands]
    rw [hn, Instr.wellFormed, decide_eq_true_eq]
    omega
  | nop | ecbEnc | ecbDec | kwWrap | kwUnwrap | ctr | eaxEnc | eaxDec | cbcEnc | cbcDec | zeroize => decide

end Sys2Proof

/-! The statement of 30_encoding.md R92. -/

namespace Sys2Proof.Machine

/-- Settles O24: the table pairs each well-formed command with its word, and those are the pairs that decode (`decode_eq_ok_iff`). -/
theorem sixteenLegalWords : Obligations.SixteenLegalWords := by
  intro w i
  rw [decode_eq_ok_iff, ← mem_legalCommands_iff]
  change _ ↔ (w, i) ∈ legalCommands.map fun i => (encode i, i)
  rw [List.mem_map]
  constructor
  · rintro ⟨hi, rfl⟩
    exact ⟨i, hi, rfl⟩
  · rintro ⟨i, hi, ⟨⟩⟩
    exact ⟨hi, rfl⟩

end Sys2Proof.Machine

/-! SUPPORT. The field GF(2^8) and the two tables (40_ecb.md R112 to R114). -/

namespace Sys2Proof

theorem xtime_toNat (a : Byte) :
    (xtime a).toNat = if a.toNat < 128 then 2 * a.toNat else (2 * a.toNat - 256) ^^^ 0x1B := by
  revert a
  decide +kernel

/-- Multiplication by x is linear: each bit 7 that is set adds its own 0x1B. -/
theorem xtime_xor (a b : Byte) : xtime (a ^^^ b) = xtime a ^^^ xtime b := by
  unfold xtime
  rw [BitVec.getLsbD_xor, BitVec.shiftLeft_xor_distrib]
  cases a.getLsbD 7 <;> cases b.getLsbD 7
  · rfl
  · exact BitVec.xor_assoc ..
  · change a <<< 1 ^^^ b <<< 1 ^^^ 0x1B#8 = a <<< 1 ^^^ 0x1B#8 ^^^ b <<< 1
    ac_rfl
  · change a <<< 1 ^^^ b <<< 1 = (a <<< 1 ^^^ 0x1B#8) ^^^ (b <<< 1 ^^^ 0x1B#8)
    rw [BitVec.xor_assoc, BitVec.xor_comm 0x1B#8, BitVec.xor_assoc, BitVec.xor_self, BitVec.xor_zero]

theorem gfMul_eq_foldl_map (a b : Byte) :
    gfMul a b = ((List.range 8).map fun i => if b.getLsbD i then xtime^[i] a else 0#8).foldl (· ^^^ ·) 0#8 := by
  rw [gfMul, List.foldl_map]
  congr 1
  funext acc i
  split <;> simp

/-! The factors of the two matrices: the bits of a literal factor are read off, and the order of the terms is the rule's. -/

@[simp] theorem gfMul_one (a : Byte) : gfMul a 1#8 = a := by simp [gfMul, List.range_succ]

@[simp] theorem gfMul_two (a : Byte) : gfMul a 2#8 = mul2 a := by simp [gfMul, List.range_succ, mul2]

@[simp] theorem gfMul_three (a : Byte) : gfMul a 3#8 = mul3 a := by
  simp [gfMul, List.range_succ, mul3, BitVec.xor_comm]

@[simp] theorem gfMul_nine (a : Byte) : gfMul a 9#8 = mul9 a := by
  simp [gfMul, List.range_succ, mul9, BitVec.xor_comm]

@[simp] theorem gfMul_eleven (a : Byte) : gfMul a 11#8 = mul11 a := by
  calc gfMul a 11#8 = a ^^^ xtime a ^^^ xtime (xtime (xtime a)) := by simp [gfMul, List.range_succ]
    _ = mul11 a := by rw [mul11]; ac_rfl

@[simp] theorem gfMul_thirteen (a : Byte) : gfMul a 13#8 = mul13 a := by
  calc gfMul a 13#8 = a ^^^ xtime (xtime a) ^^^ xtime (xtime (xtime a)) := by simp [gfMul, List.range_succ]
    _ = mul13 a := by rw [mul13]; ac_rfl

@[simp] theorem gfMul_fourteen (a : Byte) : gfMul a 14#8 = mul14 a := by
  calc gfMul a 14#8 = xtime a ^^^ xtime (xtime a) ^^^ xtime (xtime (xtime a)) := by simp [gfMul, List.range_succ]
    _ = mul14 a := by rw [mul14]; ac_rfl

@[simp] theorem invSbox_sbox (a : Byte) : invSbox (sbox a) = a := by
  revert a
  decide +kernel

@[simp] theorem sbox_invSbox (a : Byte) : sbox (invSbox a) = a := by
  revert a
  decide +kernel

/-- What the formula of R113 does to the inverse of a byte. -/
def sboxAffine (b : Byte) : Byte :=
  b ^^^ b.rotateLeft 1 ^^^ b.rotateLeft 2 ^^^ b.rotateLeft 3 ^^^ b.rotateLeft 4 ^^^ 0x63#8

/-- `sboxAffine` undone. -/
def sboxAffineInv (c : Byte) : Byte :=
  (c ^^^ 0x63#8).rotateLeft 1 ^^^ (c ^^^ 0x63#8).rotateLeft 3 ^^^ (c ^^^ 0x63#8).rotateLeft 6

theorem sboxAffine_sboxAffineInv (c : Byte) : sboxAffine (sboxAffineInv c) = c := by
  revert c
  decide +kernel

/-- The byte that the formula of R113 turns into `SBOX[a]` is the inverse of a. -/
theorem gfMul_sboxAffineInv_sbox (a : Byte) (h : a ≠ 0#8) : gfMul a (sboxAffineInv (sbox a)) = 1#8 := by
  revert a
  decide +kernel

end Sys2Proof

/-! SUPPORT. AES byte by byte: the blocks and columns of a state, and each step of a round undone (40_ecb.md R111, R115
to R120). -/

namespace Sys2Proof

/-! ### Blocks, columns and bytes -/

@[simp] theorem wordOfColumn_columnOfWord (w : Word) : wordOfColumn (columnOfWord w) = w := by
  simp [wordOfColumn, columnOfWord]

@[simp] theorem columnOfWord_wordOfColumn (c : Column) : columnOfWord (wordOfColumn c) = c := by
  simp [wordOfColumn, columnOfWord]

@[simp] theorem blockOfAesState_aesStateOfBlock (x : Block) : blockOfAesState (aesStateOfBlock x) = x := by
  simp [blockOfAesState, aesStateOfBlock]

@[simp] theorem aesStateOfBlock_blockOfAesState (s : AesState) : aesStateOfBlock (blockOfAesState s) = s := by
  simp [blockOfAesState, aesStateOfBlock]

theorem blockOfBytes_toNat {xs : List Byte} (h : xs.length = 16) : (blockOfBytes xs).toNat = intBe xs := by
  have hlt := intBe_lt xs
  rw [h] at hlt
  rw [blockOfBytes, BitVec.toNat_ofNat, Nat.mod_eq_of_lt (by omega)]

theorem laneByte_quarter (b : Block) {c k : Nat} (hc : c < 4) (hk : k < 4) :
    laneByte (quarter b c) (3 - k) = byteOfBlock b (4 * c + k) := by
  rw [← laneByte_wordOfBlock b ⟨c, hc⟩ hk, wordOfBlock]
  interval_cases k <;> simp

theorem columnOfWord_quarter (b : Block) {c : Nat} (hc : c < 4) : columnOfWord (quarter b c) =
    ⟨byteOfBlock b (4 * c), byteOfBlock b (4 * c + 1), byteOfBlock b (4 * c + 2), byteOfBlock b (4 * c + 3)⟩ := by
  have hbyte {k : Nat} (hk : k < 4) := laneByte_quarter b hc hk
  rw [columnOfWord, Column.mk.injEq]
  exact ⟨hbyte (k := 0) (by decide), hbyte (k := 1) (by decide), hbyte (k := 2) (by decide), hbyte (k := 3) (by decide)⟩

theorem joinBytes_xor (x0 x1 x2 x3 y0 y1 y2 y3 : Byte) :
    joinBytes (x0 ^^^ y0) (x1 ^^^ y1) (x2 ^^^ y2) (x3 ^^^ y3) = joinBytes x0 x1 x2 x3 ^^^ joinBytes y0 y1 y2 y3 := by
  have h : (x0 ++ x1 ++ x2 ++ x3) ^^^ (y0 ++ y1 ++ y2 ++ y3) =
      (x0 ^^^ y0) ++ (x1 ^^^ y1) ++ (x2 ^^^ y2) ++ (x3 ^^^ y3) := by simp only [BitVec.xor_append]
  exact h.symm

theorem joinWords_xor (x0 x1 x2 x3 y0 y1 y2 y3 : Word) :
    joinWords (x0 ^^^ y0) (x1 ^^^ y1) (x2 ^^^ y2) (x3 ^^^ y3) = joinWords x0 x1 x2 x3 ^^^ joinWords y0 y1 y2 y3 := by
  have h : (x0 ++ x1 ++ x2 ++ x3) ^^^ (y0 ++ y1 ++ y2 ++ y3) =
      (x0 ^^^ y0) ++ (x1 ^^^ y1) ++ (x2 ^^^ y2) ++ (x3 ^^^ y3) := by simp only [BitVec.xor_append]
  exact h.symm

/-- AddRoundKey is the xor of the two 16-byte strings (R120). -/
theorem blockOfAesState_addRoundKey (s rk : AesState) :
    blockOfAesState (addRoundKey s rk) = blockOfAesState s ^^^ blockOfAesState rk := by
  simp only [blockOfAesState, addRoundKey, wordOfColumn, xorColumn, joinBytes_xor, joinWords_xor]

/-! ### Each step undone -/

@[simp] theorem addRoundKey_addRoundKey (s rk : AesState) : addRoundKey (addRoundKey s rk) rk = s := by
  simp [addRoundKey, xorColumn]

@[simp] theorem invSubBytes_subBytes (s : AesState) : invSubBytes (subBytes s) = s := by
  simp [subBytes, invSubBytes, mapColumns, mapColumn]

@[simp] theorem subBytes_invSubBytes (s : AesState) : subBytes (invSubBytes s) = s := by
  simp [subBytes, invSubBytes, mapColumns, mapColumn]

@[simp] theorem invShiftRows_shiftRows (s : AesState) : invShiftRows (shiftRows s) = s := rfl

@[simp] theorem shiftRows_invShiftRows (s : AesState) : shiftRows (invShiftRows s) = s := rfl

/-- Each entry of the product of the two matrices is 0 or 1 already as a polynomial, before any reduction: by linearity
the terms `xtime^i` of each byte cancel in pairs. -/
theorem invMixColumn_mixColumn (c : Column) : invMixColumn (mixColumn c) = c := by
  simp only [mixColumn, invMixColumn, mul2, mul3, mul9, mul11, mul13, mul14, xtime_xor]
  ac_nf
  simp

theorem mixColumn_invMixColumn (c : Column) : mixColumn (invMixColumn c) = c := by
  simp only [mixColumn, invMixColumn, mul2, mul3, mul9, mul11, mul13, mul14, xtime_xor]
  ac_nf
  simp

@[simp] theorem invMixColumns_mixColumns (s : AesState) : invMixColumns (mixColumns s) = s := by
  simp [mixColumns, invMixColumns, mapColumns, invMixColumn_mixColumn]

@[simp] theorem mixColumns_invMixColumns (s : AesState) : mixColumns (invMixColumns s) = s := by
  simp [mixColumns, invMixColumns, mapColumns, mixColumn_invMixColumn]

end Sys2Proof

namespace Sys2Proof.Machine

/-! ### The steps on the sixteen bytes of the state -/

/-- A state as a byte string: column by column, each from top to bottom (R111). -/
theorem stateBytes_eq (s : AesState) : stateBytes s =
    [s.c0.b0, s.c0.b1, s.c0.b2, s.c0.b3, s.c1.b0, s.c1.b1, s.c1.b2, s.c1.b3,
     s.c2.b0, s.c2.b1, s.c2.b2, s.c2.b3, s.c3.b0, s.c3.b1, s.c3.b2, s.c3.b3] := by
  refine Eq.trans (congrArg bytesOfBlock (BitVec.eq_of_toNat_eq ?_)) (bytesOfBlock_blockOfBytes rfl)
  simp only [blockOfAesState, wordOfColumn, joinWords_toNat, joinBytes_toNat]
  rw [blockOfBytes_toNat rfl]
  simp only [intBe, List.length_cons, List.length_nil]
  omega

theorem stateBytes_subBytes (s : AesState) : stateBytes (subBytes s) = (stateBytes s).map sbox := by
  simp only [stateBytes_eq]
  rfl

theorem stateBytes_invSubBytes (s : AesState) : stateBytes (invSubBytes s) = (stateBytes s).map invSbox := by
  simp only [stateBytes_eq]
  rfl

theorem stateBytes_shiftRows (s : AesState) :
    stateBytes (shiftRows s) = [0, 5, 10, 15, 4, 9, 14, 3, 8, 13, 2, 7, 12, 1, 6, 11].map (stateByte s) := by
  simp [stateBytes_eq, stateByte, shiftRows]

theorem stateBytes_invShiftRows (s : AesState) :
    stateBytes (invShiftRows s) = [0, 13, 10, 7, 4, 1, 14, 11, 8, 5, 2, 15, 12, 9, 6, 3].map (stateByte s) := by
  simp [stateBytes_eq, stateByte, invShiftRows]

theorem stateBytes_mixColumns (s : AesState) : stateBytes (mixColumns s) =
    matrixOnColumns [[2, 3, 1, 1], [1, 2, 3, 1], [1, 1, 2, 3], [3, 1, 1, 2]] s := by
  simp [stateBytes_eq, matrixOnColumns, rowTimes, stateByte, List.range_succ, mixColumns, mapColumns, mixColumn]

theorem stateBytes_invMixColumns (s : AesState) : stateBytes (invMixColumns s) =
    matrixOnColumns [[14, 11, 13, 9], [9, 14, 11, 13], [13, 9, 14, 11], [11, 13, 9, 14]] s := by
  simp [stateBytes_eq, matrixOnColumns, rowTimes, stateByte, List.range_succ, invMixColumns, mapColumns, invMixColumn]

end Sys2Proof.Machine

/-! SUPPORT. The key schedule, E and Dinv by the index of the round key (40_ecb.md R121 to R124). -/

namespace Sys2Proof

theorem roundKeysFrom_length (rk : AesState) (rcs : List Byte) : (roundKeysFrom rk rcs).length = rcs.length := by
  induction rcs generalizing rk with
  | nil => rfl
  | cons rc rcs ih => simp [roundKeysFrom, ih]

/-- Each round key comes from the one before it, by the round constant between them. -/
theorem roundKeysFrom_getD_succ (rk d : AesState) {rcs : List Byte} {r : Nat} (h : r < rcs.length) :
    (rk :: roundKeysFrom rk rcs).getD (r + 1) d = nextRoundKey rcs[r] ((rk :: roundKeysFrom rk rcs).getD r d) := by
  induction rcs generalizing rk r with
  | nil => simp at h
  | cons rc rcs ih =>
    cases r with
    | zero => rfl
    | succ r => exact ih (nextRoundKey rc rk) (Nat.lt_of_succ_lt_succ h)

/-- `RCON[r + 1] = xtime^r(0x01)`. -/
theorem rcon_getElem {r : Nat} (h : r < 10) : rcon[r] = xtime^[r] 0x01#8 := by
  interval_cases r <;> rfl

/-- The rounds of E between the first AddRoundKey and the last round are a loop over the round keys. -/
theorem cipherRounds_concat (rks : List AesState) (rk s : AesState) :
    cipherRounds (rks ++ [rk]) s = addRoundKey (shiftRows (subBytes
      (rks.foldl (fun s rk => addRoundKey (mixColumns (shiftRows (subBytes s))) rk) s))) rk := by
  induction rks generalizing s with
  | nil => rfl
  | cons rk' rks ih =>
    have h : cipherRounds (rk' :: (rks ++ [rk])) s =
        cipherRounds (rks ++ [rk]) (addRoundKey (mixColumns (shiftRows (subBytes s))) rk') := by
      cases rks <;> rfl
    exact h.trans (ih _)

/-- The rounds of Dinv take the same round keys from the last to the first. -/
theorem invCipherRounds_concat (rks : List AesState) (rk s : AesState) :
    invCipherRounds (rks ++ [rk]) s = invSubBytes (invShiftRows
      (rks.foldr (fun rk s => invMixColumns (addRoundKey (invSubBytes (invShiftRows s)) rk)) (addRoundKey s rk))) := by
  induction rks with
  | nil => rfl
  | cons rk' rks ih =>
    have h : invCipherRounds (rk' :: (rks ++ [rk])) s =
        invSubBytes (invShiftRows (invMixColumns (addRoundKey (invCipherRounds (rks ++ [rk]) s) rk'))) := by
      cases rks <;> rfl
    rw [List.cons_append, h, ih, List.foldr_cons]

theorem invCipherRounds_cipherRounds (rks : List AesState) (s : AesState) :
    invCipherRounds rks (cipherRounds rks s) = s := by
  induction rks, s using cipherRounds.induct with
  | case1 s => rfl
  | case2 s rk => simp [cipherRounds, invCipherRounds]
  | case3 s rk rks hne ih => simp [cipherRounds, invCipherRounds, ih]

theorem cipherRounds_invCipherRounds (rks : List AesState) (s : AesState) :
    cipherRounds rks (invCipherRounds rks s) = s := by
  induction rks, s using invCipherRounds.induct with
  | case1 s => rfl
  | case2 s rk => simp [cipherRounds, invCipherRounds]
  | case3 s rk rks hne ih => simp [cipherRounds, invCipherRounds, ih]

@[simp] theorem aesDinv_aesE (k x : Block) : aesDinv k (aesE k x) = x := by
  simp [aesDinv, aesE, invCipherRounds_cipherRounds]

@[simp] theorem aesE_aesDinv (k y : Block) : aesE k (aesDinv k y) = y := by
  simp [aesDinv, aesE, cipherRounds_invCipherRounds]

end Sys2Proof

namespace Sys2Proof.Machine

theorem roundKey_zero (k : Block) : roundKey k 0 = aesStateOfBlock k := rfl

theorem roundKey_succ (k : Block) {r : Nat} (h : r < 10) :
    roundKey k (r + 1) = nextRoundKey (xtime^[r] 0x01#8) (roundKey k r) := by
  rw [← rcon_getElem h]
  exact roundKeysFrom_getD_succ _ _ h

theorem roundKeys_eq (k : Block) : roundKeys k = [1, 2, 3, 4, 5, 6, 7, 8, 9].map (roundKey k) ++ [roundKey k 10] := rfl

theorem getElem?_roundKeys (k : Block) {r : Nat} (h : r < 11) :
    (aesStateOfBlock k :: roundKeys k)[r]? = some (roundKey k r) := by
  have hlen : r < (aesStateOfBlock k :: roundKeys k).length := by
    rw [List.length_cons, roundKeys, roundKeysFrom_length]
    exact h
  rw [roundKey, List.getD_eq_getElem _ _ hlen, List.getElem?_eq_getElem hlen]

/-- E is the loop of R122. -/
theorem aesE_eq_loop (k x : Block) : aesE k x = blockOfAesState (addRoundKey (shiftRows (subBytes
    ([1, 2, 3, 4, 5, 6, 7, 8, 9].foldl (fun s r => addRoundKey (mixColumns (shiftRows (subBytes s))) (roundKey k r))
      (addRoundKey (aesStateOfBlock x) (roundKey k 0))))) (roundKey k 10)) := by
  rw [aesE, roundKeys_eq, cipherRounds_concat, List.foldl_map, roundKey_zero]

/-- Dinv is the loop of R123. -/
theorem aesDinv_eq_loop (k y : Block) : aesDinv k y = blockOfAesState (addRoundKey (invSubBytes (invShiftRows
    ([9, 8, 7, 6, 5, 4, 3, 2, 1].foldl
      (fun s r => invMixColumns (addRoundKey (invSubBytes (invShiftRows s)) (roundKey k r)))
      (addRoundKey (aesStateOfBlock y) (roundKey k 10))))) (roundKey k 0)) := by
  rw [aesDinv, roundKeys_eq, invCipherRounds_concat, List.foldr_map, roundKey_zero]
  rfl

/-! ### The words of the key schedule -/

/-- Column j of a state, j = 0..3. -/
def columnAt (s : AesState) (j : Nat) : Column := [s.c0, s.c1, s.c2, s.c3].getD j s.c0

/-- `w[i]` of R121, read off the round keys. -/
def scheduleWord (k : Block) (i : Nat) : Column := columnAt (roundKey k (i / 4)) (i % 4)

theorem scheduleWord_eq (k : Block) (r : Nat) {j : Nat} (hj : j < 4) :
    scheduleWord k (4 * r + j) = columnAt (roundKey k r) j := by
  rw [scheduleWord, Nat.mul_add_div (by decide), Nat.div_eq_of_lt hj, Nat.add_zero, Nat.mul_add_mod, Nat.mod_eq_of_lt hj]

/-- A round key is its four words. -/
theorem roundKey_eq_scheduleWords (k : Block) (r : Nat) : roundKey k r =
    ⟨scheduleWord k (4 * r), scheduleWord k (4 * r + 1), scheduleWord k (4 * r + 2), scheduleWord k (4 * r + 3)⟩ := by
  have h0 : scheduleWord k (4 * r) = columnAt (roundKey k r) 0 := scheduleWord_eq k r (j := 0) (by decide)
  rw [h0, scheduleWord_eq k r (j := 1) (by decide), scheduleWord_eq k r (j := 2) (by decide),
    scheduleWord_eq k r (j := 3) (by decide)]
  rfl

theorem scheduleWord_of_lt (k : Block) {i : Nat} (hi : i < 4) : scheduleWord k i =
    ⟨byteOfBlock k (4 * i), byteOfBlock k (4 * i + 1), byteOfBlock k (4 * i + 2), byteOfBlock k (4 * i + 3)⟩ := by
  rw [← columnOfWord_quarter k hi]
  interval_cases i <;> rfl

/-- What R121 does to the word before word i. -/
def scheduleStep (i : Nat) (p : Column) : Column :=
  if i % 4 = 0 then scheduleCore (xtime^[i / 4 - 1] 0x01#8) p else p

theorem scheduleWord_succ (k : Block) {i : Nat} (h4 : 4 ≤ i) (h44 : i < 44) :
    scheduleWord k i = xorColumn (scheduleWord k (i - 4)) (scheduleStep i (scheduleWord k (i - 1))) := by
  obtain ⟨r, j, hj, rfl⟩ : ∃ r j, j < 4 ∧ i = 4 * (r + 1) + j := ⟨i / 4 - 1, i % 4, by omega, by omega⟩
  have hr : r < 10 := by omega
  have hback : 4 * (r + 1) + j - 4 = 4 * r + j := by omega
  rw [hback, scheduleWord_eq k _ hj, scheduleWord_eq k _ hj, roundKey_succ k hr]
  by_cases h0 : j = 0
  · subst h0
    have hprev : 4 * (r + 1) + 0 - 1 = 4 * r + 3 := by omega
    have hq : (4 * (r + 1) + 0) / 4 - 1 = r := by omega
    rw [hprev, scheduleWord_eq k _ (by decide), scheduleStep, if_pos (by omega), hq]
    rfl
  · have hpos : 1 ≤ j := Nat.pos_of_ne_zero h0
    have hprev : 4 * (r + 1) + j - 1 = 4 * (r + 1) + (j - 1) := by omega
    rw [hprev, scheduleWord_eq k _ (by omega), scheduleStep, if_neg (by omega), roundKey_succ k hr]
    interval_cases j <;> rfl

end Sys2Proof.Machine

/-! SUPPORT. The two ECB commands, with the cipher left open (40_ecb.md R130, R131). -/

namespace Sys2Proof.Machine

theorem Memory.read_eq_of_readBytes_eq {m m' : Memory} {a n b : Nat} (h : m.readBytes a n = m'.readBytes a n)
    (hlo : a ≤ b) (hhi : b < a + n) : m.read b = m'.read b := by
  have hget (m : Memory) : (m.readBytes a n)[b - a]? = some (m.read b) := by
    have hk : b - a < (m.readBytes a n).length := by rw [Memory.readBytes_length]; omega
    rw [List.getElem?_eq_getElem hk, Memory.readBytes_getElem, Nat.add_sub_cancel' hlo]
  exact Option.some.inj ((hget m).symm.trans (h ▸ hget m'))

theorem DataBecomes.data_eq {s t : State} {xs : List Byte} {c : ECode} (h : DataBecomes s t xs c) :
    t.data = s.data := by
  obtain ⟨-, -, -, heq⟩ := h
  rw [heq]

theorem DataBecomes.regionBytes_eq {s t : State} {xs : List Byte} {c : ECode} (h : DataBecomes s t xs c) :
    t.regionBytes s.data = xs := by
  obtain ⟨-, hbytes, -, -⟩ := h
  exact hbytes

/-- Of two commands that write the DATA region, the second restores BUF when it writes back what stood there. -/
theorem DataBecomes.read_restored {s t u : State} {xs ys : List Byte} {c c' : ECode} (ht : DataBecomes s t xs c)
    (hu : DataBecomes t u ys c') (hys : ys = s.regionBytes s.data) (a : Nat) : u.buf.read a = s.buf.read a := by
  have hd := ht.data_eq
  obtain ⟨-, -, htout, -⟩ := ht
  obtain ⟨-, hback, huout, -⟩ := hu
  rw [hd] at hback huout
  by_cases ha : a < s.data.addr.toNat ∨ s.data.addr.toNat + s.data.len.toNat ≤ a
  · rw [huout a ha, htout a ha]
  · exact Memory.read_eq_of_readBytes_eq (hback.trans hys) (by omega) (by omega)

/-- The conditions of R130 and R131 on length and range. -/
def EcbLaid (s : State) : Prop := s.data.len.toNat = 16 ∧ s.fits s.data

/-- A command with the checks of ECB that replaces the DATA region by `f` of it. -/
def ecbCommand (f : Block → Block) (s : State) : Answer :=
  ecbChecks s <| transformData s fun x => bytesOfBlock (f (blockOfBytes x))

theorem exec_ecbEnc (s : State) : exec .ecbEnc s = ecbCommand (aesE s.key) s := rfl

theorem exec_ecbDec (s : State) : exec .ecbDec s = ecbCommand (aesDinv s.key) s := rfl

theorem ecbCommand_of_not_keyLoaded {f : Block → Block} {s : State} (h : ¬ s.keyLoaded) :
    ecbCommand f s = .next (completedWith s .keyNotLoaded) := requireKey_of_not h

theorem ecbCommand_of_not_laid {f : Block → Block} {s : State} (hk : s.keyLoaded) (h : ¬ EcbLaid s) :
    ecbCommand f s = .next (completedWith s .malformedLength) := by
  rw [ecbCommand, ecbChecks, requireKey_of_loaded hk]
  by_cases hlen : s.data.len = 16#32
  · have hfit : ¬ ∀ r ∈ [s.data], s.fits r := fun hf => h ⟨congrArg BitVec.toNat hlen, hf _ (.head _)⟩
    rw [requireForm_of_true (beq_iff_eq.2 hlen), requireRegions_of_not hfit, complete_eq_completedWith]
  · rw [requireForm_of_false (beq_eq_false_iff_ne.2 hlen), complete_eq_completedWith]

theorem ecbCommand_of_laid {f : Block → Block} {s : State} (hk : s.keyLoaded) (h : EcbLaid s) :
    ∃ t, ecbCommand f s = .next t ∧
      DataBecomes s t (bytesOfBlock (f (blockOfBytes (s.regionBytes s.data)))) .ok := by
  obtain ⟨hlen, hfit⟩ := h
  have hform : (s.data.len == 16#32) = true := beq_iff_eq.2 (BitVec.eq_of_toNat_eq hlen)
  rw [ecbCommand, ecbChecks, requireKey_of_loaded hk, requireForm_of_true hform,
    requireRegions_of_fit (List.forall_mem_singleton.2 hfit)]
  exact transformData_of_fit hfit (by rw [bytesOfBlock_length, hlen])

/-- Everything such a command can leave: the region transformed, or STATUS alone changed, with a code. -/
theorem ecbCommand_next {f : Block → Block} {s t : State} (h : ecbCommand f s = .next t) :
    ((s.keyLoaded ∧ EcbLaid s) ∧ DataBecomes s t (bytesOfBlock (f (blockOfBytes (s.regionBytes s.data)))) .ok) ∨
    (¬ (s.keyLoaded ∧ EcbLaid s) ∧ ∃ c, c ≠ .ok ∧ t = completedWith s c) := by
  by_cases hk : s.keyLoaded
  · by_cases hl : EcbLaid s
    · obtain ⟨t', ht', hd⟩ := ecbCommand_of_laid (f := f) hk hl
      cases ht'.symm.trans h
      exact .inl ⟨⟨hk, hl⟩, hd⟩
    · cases (ecbCommand_of_not_laid hk hl).symm.trans h
      exact .inr ⟨fun hr => hl hr.2, _, by decide, rfl⟩
  · cases (ecbCommand_of_not_keyLoaded hk).symm.trans h
    exact .inr ⟨fun hr => hk hr.1, _, by decide, rfl⟩

/-- Two such commands of which the second undoes the first restore BUF, when the second succeeds. -/
theorem ecbCommand_restores {f g : Block → Block} {s t u : State} (hgf : ∀ x, g (f x) = x)
    (ht : ecbCommand f s = .next t) (hu : ecbCommand g t = .next u) (hok : u.ecode = .ok) (a : Nat) :
    u.buf.read a = s.buf.read a := by
  rcases ecbCommand_next hu with ⟨hready, hdu⟩ | ⟨-, c, hc, rfl⟩
  · rcases ecbCommand_next ht with ⟨⟨-, hlen, -⟩, hdt⟩ | ⟨hnot, c, -, rfl⟩
    · refine hdt.read_restored hdu ?_ a
      have h16 : (s.regionBytes s.data).length = 16 := by rw [s.regionBytes_length, hlen]
      rw [hdt.data_eq, hdt.regionBytes_eq, blockOfBytes_bytesOfBlock, hgf, bytesOfBlock_blockOfBytes h16]
    · exact absurd hready hnot
  · exact absurd hok hc

end Sys2Proof.Machine

/-! The statements of 40_ecb.md. -/

namespace Sys2Proof.Machine

/-- Settles O35: w[i] is column i mod 4 of round key i/4. -/
theorem keyScheduleFollowsTheLoop : Obligations.KeyScheduleFollowsTheLoop := by
  refine fun k => ⟨scheduleWord k, fun i => scheduleWord_of_lt k, fun i => scheduleWord_succ k, fun r hr => ?_⟩
  rw [getElem?_roundKeys k hr, roundKey_eq_scheduleWords k r]

/-- Settles O36, step by step; E and Dinv undo each other because every step is undone and the round keys are the same. -/
theorem cipherIsAPermutation : Obligations.CipherIsAPermutation := by
  refine ⟨stateBytes_eq, blockOfAesState_aesStateOfBlock, fun s => ⟨stateBytes_subBytes s, stateBytes_invSubBytes s⟩,
    fun s => ⟨stateBytes_shiftRows s, stateBytes_invShiftRows s⟩,
    fun s => ⟨stateBytes_mixColumns s, stateBytes_invMixColumns s, invMixColumns_mixColumns s⟩, by decide,
    fun s rk => ⟨blockOfAesState_addRoundKey s rk, addRoundKey_addRoundKey s rk⟩, aesE_eq_loop, aesDinv_eq_loop,
    fun k x => ⟨aesDinv_aesE k x, aesE_aesDinv k x⟩, ?_⟩
  decide +kernel

/-- Settles O37, the ECB command with E. -/
theorem ecbEncCommand : Obligations.EcbEncCommand := by
  refine ⟨by decide, fun s => ?_⟩
  rw [exec_ecbEnc]
  exact ⟨ecbCommand_of_not_keyLoaded, ecbCommand_of_not_laid, fun hk hlen hfit => ecbCommand_of_laid hk ⟨hlen, hfit⟩⟩

/-- Settles O38, the ECB command with Dinv, under the key that ECB_ENC kept. -/
theorem ecbDecCommand : Obligations.EcbDecCommand := by
  refine ⟨by decide, fun s => ⟨ecbCommand_of_not_keyLoaded, ecbCommand_of_not_laid,
    fun hk hlen hfit => ecbCommand_of_laid hk ⟨hlen, hfit⟩, fun t u ht hu => ?_⟩⟩
  have hkey : t.key = s.key := ((exec_completes ht).key_keyw_eq (by decide)).1
  rw [exec_ecbEnc] at ht
  rw [exec_ecbDec, hkey] at hu
  exact ecbCommand_restores (aesDinv_aesE s.key) ht hu

/-- Settles O34: the byte that the formula turns into SBOX[a] is the inverse of a. -/
theorem sboxFollowsItsFormula : Obligations.SboxFollowsItsFormula := by
  refine ⟨xtime_toNat, gfMul_eq_foldl_map, fun a => ⟨gfMul_two a, gfMul_three a, gfMul_nine a, gfMul_eleven a,
    gfMul_thirteen a, gfMul_fourteen a⟩, by decide +kernel, fun a => ⟨⟨sboxAffineInv (sbox a), ?_,
      gfMul_sboxAffineInv_sbox a, (sboxAffine_sboxAffineInv (sbox a)).symm⟩, invSbox_sbox a, sbox_invSbox a⟩⟩
  rintro rfl
  decide +kernel

end Sys2Proof.Machine

/-! SUPPORT. The two widths of the step counter (41_keywrap.md R143). -/

namespace Sys2Proof.Machine

theorem bytesOfSemi_ofNat (v : Nat) : bytesOfSemi (BitVec.ofNat 64 v) = beBytes 8 v := beBytes_mod 8 0 v

theorem kwCounter_w8_eq_w64 {t : Nat} (h : t ≤ 255) : kwCounter .w8 t = kwCounter .w64 t :=
  congrArg (BitVec.ofNat 64) (Nat.mod_eq_of_lt (Nat.lt_succ_of_le h))

theorem wrapRound_w8_eq_w64 (key : Block) {base i : Nat} (a : Semi) {rs : List Semi} (h : base + i + rs.length ≤ 256) :
    wrapRound .w8 key base i a rs = wrapRound .w64 key base i a rs := by
  induction rs generalizing i a with
  | nil => rfl
  | cons r rs ih =>
    rw [List.length_cons] at h
    rw [wrapRound, wrapRound, kwCounter_w8_eq_w64 (by omega), ih _ (by omega)]

theorem wrapRounds_w8_eq_w64 (key : Block) {js : List Nat} (hjs : ∀ j ∈ js, j ≤ 5) {ar : Semi × List Semi}
    (h : ar.2.length ≤ 42) : wrapRounds .w8 key js ar = wrapRounds .w64 key js ar := by
  induction js generalizing ar with
  | nil => rfl
  | cons j js ih =>
    obtain ⟨hj, hjs⟩ := List.forall_mem_cons.1 hjs
    have hlast : ar.2.length * j ≤ ar.2.length * 5 := Nat.mul_le_mul_left _ hj
    have hround := wrapRound_w8_eq_w64 key (base := ar.2.length * j) (i := 1) ar.1 (rs := ar.2) (by omega)
    rw [wrapRounds, wrapRounds, List.foldl_cons, List.foldl_cons, hround]
    exact ih hjs (by rw [wrapRound_length]; exact h)

end Sys2Proof.Machine

/-! SUPPORT. The rounds of the model are the indexed loops of 41_keywrap.md R141 and R142. -/

namespace Sys2Proof.Machine

/-- One step of the wrap on R[p + 1], which stands at position p, in the round with `base = n*j`. -/
def wrapStep (width : Config.KwTWidth) (key : Block) (base : Nat) (ar : Semi × List Semi) (p : Nat) :
    Semi × List Semi :=
  let b := aesE key (joinSemis ar.1 (ar.2.getD p 0#64))
  (highSemi b ^^^ kwCounter width (base + (p + 1)), ar.2.set p (lowSemi b))

/-- One step of the unwrap on R[p + 1]. -/
def unwrapStep (width : Config.KwTWidth) (key : Block) (base : Nat) (p : Nat) (ar : Semi × List Semi) :
    Semi × List Semi :=
  let b := aesDinv key (joinSemis (ar.1 ^^^ kwCounter width (base + (p + 1))) (ar.2.getD p 0#64))
  (highSemi b, ar.2.set p (lowSemi b))

theorem wrapLoop_eq_foldl (width : Config.KwTWidth) (key : Block) (n : Nat) (ar : Semi × List Semi) :
    wrapLoop width key n ar =
      (List.range 6).foldl (fun ar j => (List.range n).foldl (wrapStep width key (n * j)) ar) ar := by
  simp only [wrapLoop, wrapSteps, List.foldl_flatMap, List.foldl_map]
  rfl

theorem unwrapLoop_eq_foldl (width : Config.KwTWidth) (key : Block) (n : Nat) (ar : Semi × List Semi) :
    unwrapLoop width key n ar =
      (List.range 6).reverse.foldl (fun ar j => (List.range n).foldr (unwrapStep width key (n * j)) ar) ar := by
  simp only [unwrapLoop, wrapSteps, List.foldl_reverse, List.foldr_flatMap, List.foldr_map]
  rfl

theorem wrapStep_append (width : Config.KwTWidth) (key : Block) (base : Nat) (a r : Semi) (pre rs : List Semi) :
    wrapStep width key base (a, pre ++ r :: rs) pre.length =
      (highSemi (aesE key (joinSemis a r)) ^^^ kwCounter width (base + (pre.length + 1)),
        (pre ++ [lowSemi (aesE key (joinSemis a r))]) ++ rs) := by
  simp [wrapStep]

/-- The steps on R[k + 1], R[k + 2], ... to the end are the round over that tail; `pre` is R[1..k]. -/
theorem foldl_wrapStep (width : Config.KwTWidth) (key : Block) (base : Nat) {k : Nat} (a : Semi) {pre : List Semi}
    (rs : List Semi) (hk : pre.length = k) :
    (List.range' k rs.length).foldl (wrapStep width key base) (a, pre ++ rs) =
      ((wrapRound width key base (k + 1) a rs).1, pre ++ (wrapRound width key base (k + 1) a rs).2) := by
  induction rs generalizing k a pre with
  | nil => rfl
  | cons r rs ih =>
    subst hk
    rw [List.length_cons, List.range'_succ, List.foldl_cons, wrapStep_append,
      ih _ (by rw [List.length_append, List.length_singleton]), List.append_assoc]
    rfl

/-- The steps on the same registers from the last back to R[k + 1]. -/
theorem foldr_unwrapStep (width : Config.KwTWidth) (key : Block) (base : Nat) {k : Nat} (a : Semi) {pre : List Semi}
    (rs : List Semi) (hk : pre.length = k) :
    (List.range' k rs.length).foldr (unwrapStep width key base) (a, pre ++ rs) =
      ((unwrapRound width key base (k + 1) a rs).1, pre ++ (unwrapRound width key base (k + 1) a rs).2) := by
  induction rs generalizing k pre with
  | nil => rfl
  | cons r rs ih =>
    have ih := ih (pre := pre ++ [r]) (k := k + 1) (by rw [List.length_append, hk, List.length_singleton])
    rw [List.append_assoc, List.singleton_append] at ih
    rw [List.length_cons, List.range'_succ, List.foldr_cons, ih]
    simp [unwrapStep, unwrapRound, ← hk]

theorem wrapRound_eq_foldl (width : Config.KwTWidth) (key : Block) (base : Nat) (ar : Semi × List Semi) :
    wrapRound width key base 1 ar.1 ar.2 = (List.range ar.2.length).foldl (wrapStep width key base) ar := by
  rw [List.range_eq_range']
  exact (foldl_wrapStep width key base ar.1 (pre := []) ar.2 rfl).symm

theorem unwrapRound_eq_foldr (width : Config.KwTWidth) (key : Block) (base : Nat) (ar : Semi × List Semi) :
    unwrapRound width key base 1 ar.1 ar.2 = (List.range ar.2.length).foldr (unwrapStep width key base) ar := by
  rw [List.range_eq_range']
  exact (foldr_unwrapStep width key base ar.1 (pre := []) ar.2 rfl).symm

theorem wrapRounds_eq_foldl (width : Config.KwTWidth) (key : Block) (js : List Nat) {n : Nat} {ar : Semi × List Semi}
    (h : ar.2.length = n) : wrapRounds width key js ar =
      js.foldl (fun ar j => (List.range n).foldl (wrapStep width key (n * j)) ar) ar := by
  induction js generalizing ar with
  | nil => rfl
  | cons j js ih =>
    subst h
    rw [List.foldl_cons, ← wrapRound_eq_foldl]
    exact ih (wrapRound_length ..)

theorem unwrapRounds_eq_foldl (width : Config.KwTWidth) (key : Block) (js : List Nat) {n : Nat} {ar : Semi × List Semi}
    (h : ar.2.length = n) : unwrapRounds width key js ar =
      js.foldl (fun ar j => (List.range n).foldr (unwrapStep width key (n * j)) ar) ar := by
  induction js generalizing ar with
  | nil => rfl
  | cons j js ih =>
    subst h
    rw [List.foldl_cons, ← unwrapRound_eq_foldr]
    exact ih (unwrapRound_length ..)

theorem kwWrap_eq_wrapLoop (width : Config.KwTWidth) (key : Block) {n : Nat} {rs : List Semi} (h : rs.length = n) :
    kwWrap width key rs = wrapLoop width key n (0xA6A6A6A6A6A6A6A6#64, rs) := by
  rw [wrapLoop_eq_foldl]
  exact wrapRounds_eq_foldl width key _ h

theorem kwUnwrap_eq_unwrapLoop (width : Config.KwTWidth) (key : Block) (a : Semi) {n : Nat} {rs : List Semi}
    (h : rs.length = n) : kwUnwrap width key a rs = unwrapLoop width key n (a, rs) := by
  rw [unwrapLoop_eq_foldl]
  exact unwrapRounds_eq_foldl width key _ h

end Sys2Proof.Machine

/-! SUPPORT. The unwrap undoes the wrap (41_keywrap.md R144), and slots as bytes (R140). -/

namespace Sys2Proof.Machine

/-- Step by step: the counter cancels under xor, and Dinv undoes E under the same key. -/
theorem unwrapRound_wrapRound (width : Config.KwTWidth) (key : Block) (base i : Nat) (a : Semi) (rs : List Semi) :
    unwrapRound width key base i (wrapRound width key base i a rs).1 (wrapRound width key base i a rs).2 = (a, rs) := by
  induction rs generalizing i a with
  | nil => rfl
  | cons r rs ih => simp [wrapRound, unwrapRound, ih]

theorem unwrapRounds_wrapRounds (width : Config.KwTWidth) (key : Block) (js : List Nat) (ar : Semi × List Semi) :
    unwrapRounds width key js.reverse (wrapRounds width key js ar) = ar := by
  induction js generalizing ar with
  | nil => rfl
  | cons j js ih =>
    have hlater : unwrapRounds width key js.reverse (wrapRounds width key (j :: js) ar) =
        wrapRound width key (ar.2.length * j) 1 ar.1 ar.2 := ih _
    rw [unwrapRounds] at hlater
    rw [List.reverse_cons, unwrapRounds, List.foldl_append, hlater, List.foldl_cons, List.foldl_nil,
      wrapRound_length, unwrapRound_wrapRound]

theorem kwUnwrap_kwWrap (width : Config.KwTWidth) (key : Block) (rs : List Semi) :
    kwUnwrap width key (kwWrap width key rs).1 (kwWrap width key rs).2 = (kwInitial, rs) :=
  unwrapRounds_wrapRounds width key [0, 1, 2, 3, 4, 5] (kwInitial, rs)

theorem bytesOfSlots_cons (r : Semi) (rs : List Semi) : bytesOfSlots (r :: rs) = bytesOfSemi r ++ bytesOfSlots rs :=
  List.flatMap_cons

theorem slotsOfBytes_bytesOfSlots {n : Nat} {rs : List Semi} (h : rs.length = n) :
    slotsOfBytes n (bytesOfSlots rs) = rs := by
  subst h
  induction rs with
  | nil => rfl
  | cons r rs ih =>
    rw [List.length_cons, slotsOfBytes, bytesOfSlots_cons, List.take_left' (bytesOfSemi_length r),
      List.drop_left' (bytesOfSemi_length r), semiOfBytes_bytesOfSemi, ih]

theorem bytesOfSlots_slotsOfBytes {n : Nat} {xs : List Byte} (h : xs.length = 8 * n) :
    bytesOfSlots (slotsOfBytes n xs) = xs := by
  induction n generalizing xs with
  | zero => exact (List.eq_nil_of_length_eq_zero h).symm
  | succ n ih =>
    have htake : (xs.take 8).length = 8 := by rw [List.length_take]; omega
    have hdrop : (xs.drop 8).length = 8 * n := by rw [List.length_drop]; omega
    rw [slotsOfBytes, bytesOfSlots_cons, bytesOfSemi_semiOfBytes htake, ih hdrop, List.take_append_drop]

theorem Memory.readBytes_add (m : Memory) (a n k : Nat) :
    m.readBytes a (n + k) = m.readBytes a n ++ m.readBytes (a + n) k := by
  induction n generalizing a with
  | zero => simp [Memory.readBytes]
  | succ n ih =>
    rw [Nat.add_right_comm, Memory.readBytes, Memory.readBytes, ih, Nat.add_assoc a 1 n, Nat.add_comm 1 n,
      List.cons_append]

end Sys2Proof.Machine

/-! SUPPORT. The two key-wrap commands: their checks, slots and results (41_keywrap.md R141, R142). -/

namespace Sys2Proof.Machine

/-- The conditions of R141 and R142 on length and range. -/
def KwLaid (s : State) : Prop := s.data.len.toNat % 8 = 0 ∧ 16 ≤ s.data.len.toNat ∧ s.fits s.data

/-- The bytes of slots 1..n, n = DATA_LEN/8 - 1. -/
def State.kwBytes (s : State) : List Byte := s.buf.readBytes (s.data.addr.toNat + 8) (s.data.len.toNat - 8)

/-- R[1..n] as the commands load them. -/
def State.kwSlots (s : State) : List Semi := slotsOfBytes (s.data.len.toNat / 8 - 1) s.kwBytes

theorem State.kwSlots_length (s : State) : s.kwSlots.length = s.data.len.toNat / 8 - 1 := slotsOfBytes_length ..

/-- A and R[1..n] as KW_WRAP computes them. -/
def State.kwWrapped (s : State) : Semi × List Semi := kwWrap s.params.kwTWidth s.key s.kwSlots

/-- A and R[1..n] as KW_UNWRAP computes them. -/
def State.kwUnwrapped (s : State) : Semi × List Semi :=
  kwUnwrap s.params.kwTWidth s.key (semiOfBytes (s.buf.readBytes s.data.addr.toNat 8)) s.kwSlots

theorem State.kwWrapped_eq_wrapLoop (s : State) : s.kwWrapped =
    wrapLoop s.params.kwTWidth s.key (s.data.len.toNat / 8 - 1) (0xA6A6A6A6A6A6A6A6#64, s.kwSlots) :=
  kwWrap_eq_wrapLoop _ _ s.kwSlots_length

theorem State.kwUnwrapped_eq_unwrapLoop (s : State) : s.kwUnwrapped =
    unwrapLoop s.params.kwTWidth s.key (s.data.len.toNat / 8 - 1)
      (semiOfBytes (s.buf.readBytes s.data.addr.toNat 8), s.kwSlots) :=
  kwUnwrap_eq_unwrapLoop _ _ _ s.kwSlots_length

theorem State.kwWrapped_length (s : State) : s.kwWrapped.2.length = s.data.len.toNat / 8 - 1 :=
  (wrapRounds_length ..).trans s.kwSlots_length

theorem State.kwUnwrapped_length (s : State) : s.kwUnwrapped.2.length = s.data.len.toNat / 8 - 1 :=
  (unwrapRounds_length ..).trans s.kwSlots_length

theorem KwLaid.fits {s : State} (h : KwLaid s) : s.fits s.data := by
  obtain ⟨-, -, hfit⟩ := h
  exact hfit

theorem kwForm_iff (len : Word) : kwForm len = true ↔ len.toNat % 8 = 0 ∧ 16 ≤ len.toNat := decide_eq_true_iff

theorem kwChecks_of_not_keyLoaded {s : State} {k : Answer} (h : ¬ s.keyLoaded) :
    kwChecks s k = .next (completedWith s .keyNotLoaded) := requireKey_of_not h

theorem kwChecks_of_not_laid {s : State} {k : Answer} (hk : s.keyLoaded) (h : ¬ KwLaid s) :
    kwChecks s k = .next (completedWith s .malformedLength) := by
  rw [kwChecks, requireKey_of_loaded hk]
  cases hform : kwForm s.data.len with
  | false => rw [requireForm_of_false rfl, complete_eq_completedWith]
  | true =>
    obtain ⟨h8, h16⟩ := (kwForm_iff _).1 hform
    have hfit : ¬ ∀ r ∈ [s.data], s.fits r := fun hf => h ⟨h8, h16, hf _ (.head _)⟩
    rw [requireForm_of_true rfl, requireRegions_of_not hfit, complete_eq_completedWith]

theorem kwChecks_of_laid {s : State} {k : Answer} (hk : s.keyLoaded) (h : KwLaid s) : kwChecks s k = k := by
  obtain ⟨h8, h16, hfit⟩ := h
  rw [kwChecks, requireKey_of_loaded hk, requireForm_of_true ((kwForm_iff _).2 ⟨h8, h16⟩),
    requireRegions_of_fit (List.forall_mem_singleton.2 hfit)]

theorem KwLaid.eight_mul_kwCount {s : State} (h : KwLaid s) : 8 * kwCount s = s.data.len.toNat - 8 := by
  obtain ⟨h8, h16, -⟩ := h
  unfold kwCount
  omega

/-- A and n slots make up a whole region. -/
theorem KwLaid.bytesOfSlots_length {s : State} (h : KwLaid s) (a : Semi) {rs : List Semi}
    (hrs : rs.length = s.data.len.toNat / 8 - 1) : (bytesOfSlots (a :: rs)).length = s.data.len.toNat := by
  obtain ⟨h8, h16, -⟩ := h
  rw [Machine.bytesOfSlots_length, List.length_cons, hrs]
  omega

theorem KwLaid.memRead_slots {s : State} (h : KwLaid s) {k : List Byte → Answer} :
    memRead s (s.data.addr.toNat + 8) (8 * kwCount s) k = k s.kwBytes := by
  rw [h.eight_mul_kwCount]
  obtain ⟨-, h16, hfit⟩ := h
  exact memRead_of_le (by unfold State.fits at hfit; omega)

/-- Writing the whole DATA region and completing, as an answer. -/
theorem memWrite_data {s : State} {xs : List Byte} (c : ECode) (hfit : s.fits s.data)
    (hlen : xs.length = s.data.len.toNat) :
    ∃ t, memWrite s s.data.addr.toNat xs (finish c) = .next t ∧ DataBecomes s t xs c :=
  ⟨_, memWrite_of_le (hlen ▸ hfit), .of_write hlen⟩

theorem exec_kwWrap_of_laid {s : State} (hk : s.keyLoaded) (h : KwLaid s) :
    ∃ t, exec .kwWrap s = .next t ∧ DataBecomes s t (bytesOfSlots (s.kwWrapped.1 :: s.kwWrapped.2)) .ok := by
  have hexec : exec .kwWrap s =
      memWrite s s.data.addr.toNat (bytesOfSlots (s.kwWrapped.1 :: s.kwWrapped.2)) (finish .ok) :=
    (kwChecks_of_laid hk h).trans h.memRead_slots
  rw [hexec]
  exact memWrite_data .ok h.fits (h.bytesOfSlots_length _ s.kwWrapped_length)

/-- What KW_UNWRAP writes and answers, by its check of A. -/
theorem exec_kwUnwrap_eq {s : State} (hk : s.keyLoaded) (h : KwLaid s) : exec .kwUnwrap s =
    if s.kwUnwrapped.1 = kwInitial then
      memWrite s s.data.addr.toNat (bytesOfSlots (s.kwUnwrapped.1 :: s.kwUnwrapped.2)) (finish .ok)
    else memWrite s s.data.addr.toNat (zeros s.data.len.toNat) (finish .integrityMismatch) := by
  have hslot0 : s.data.addr.toNat + 8 ≤ s.params.bufBytes := by
    obtain ⟨-, h16, hfit⟩ := h
    unfold State.fits at hfit
    omega
  exact (kwChecks_of_laid hk h).trans ((memRead_of_le hslot0).trans h.memRead_slots)

theorem bytesOfSemi_kwInitial : bytesOfSemi kwInitial = rep 0xA6#8 8 := by decide

theorem exec_kwUnwrap_of_match {s : State} (hk : s.keyLoaded) (h : KwLaid s) (ha : s.kwUnwrapped.1 = kwInitial) :
    ∃ t, exec .kwUnwrap s = .next t ∧ DataBecomes s t (rep 0xA6#8 8 ++ bytesOfSlots s.kwUnwrapped.2) .ok := by
  rw [exec_kwUnwrap_eq hk h, if_pos ha, ha, ← bytesOfSemi_kwInitial, ← bytesOfSlots_cons]
  exact memWrite_data .ok h.fits (h.bytesOfSlots_length _ s.kwUnwrapped_length)

theorem exec_kwUnwrap_of_mismatch {s : State} (hk : s.keyLoaded) (h : KwLaid s) (ha : s.kwUnwrapped.1 ≠ kwInitial) :
    ∃ t, exec .kwUnwrap s = .next t ∧ DataBecomes s t (zeros s.data.len.toNat) .integrityMismatch := by
  rw [exec_kwUnwrap_eq hk h, if_neg ha]
  exact memWrite_data .integrityMismatch h.fits (zeros_length _)

/-- A region that became 8 bytes and a rest reads back as slot 0 and slots 1..n. -/
theorem DataBecomes.slots_eq {s t : State} {xs ys : List Byte} {c : ECode} (h : DataBecomes s t (xs ++ ys) c)
    (hxs : xs.length = 8) : t.buf.readBytes s.data.addr.toNat 8 = xs ∧
      t.buf.readBytes (s.data.addr.toNat + 8) (s.data.len.toNat - 8) = ys := by
  have hsplit := h.regionBytes_eq
  obtain ⟨hlen, -⟩ := h
  rw [List.length_append] at hlen
  rw [State.regionBytes, ← Nat.add_sub_cancel' (show 8 ≤ s.data.len.toNat by omega), Memory.readBytes_add] at hsplit
  exact List.append_inj hsplit (by rw [Memory.readBytes_length, hxs])

/-- Once KW_WRAP has written its result, KW_UNWRAP finds A6 x 8 and the plaintext. -/
theorem DataBecomes.kwUnwrapped_eq {s t : State} {c : ECode}
    (h : DataBecomes s t (bytesOfSlots (s.kwWrapped.1 :: s.kwWrapped.2)) c) : t.kwUnwrapped = (kwInitial, s.kwSlots) := by
  have hdata := h.data_eq
  rw [bytesOfSlots_cons] at h
  obtain ⟨h0, hrest⟩ := h.slots_eq (bytesOfSemi_length _)
  obtain ⟨-, -, -, heq⟩ := h
  have hparams : t.params = s.params := by rw [heq]
  have hkey : t.key = s.key := by rw [heq]
  rw [State.kwUnwrapped, State.kwSlots, State.kwBytes, hdata, hparams, hkey, h0, hrest, semiOfBytes_bytesOfSemi,
    slotsOfBytes_bytesOfSlots s.kwWrapped_length]
  exact kwUnwrap_kwWrap ..

end Sys2Proof.Machine

/-! The statements of 41_keywrap.md R141 to R144. -/

namespace Sys2Proof.Machine

/-- Settles O39: 42 registers make 252 steps, which the low byte counts. -/
theorem stepCounterWidths : Obligations.StepCounterWidths :=
  ⟨fun t => ⟨bytesOfSemi_ofNat t, bytesOfSemi_ofNat (t % 256)⟩, fun _ => kwCounter_w8_eq_w64, by decide,
    fun key rs => wrapRounds_w8_eq_w64 key (js := [0, 1, 2, 3, 4, 5]) (by decide) (ar := (kwInitial, rs))⟩

/-- Settles O41, through the rule's loop. -/
theorem kwWrapCommand : Obligations.KwWrapCommand := by
  refine ⟨by decide, fun s => ⟨kwChecks_of_not_keyLoaded, kwChecks_of_not_laid, fun hk h8 h16 hfit => ?_⟩⟩
  obtain ⟨t, ht, hd⟩ := exec_kwWrap_of_laid hk ⟨h8, h16, hfit⟩
  exact ⟨t, _, _, ht, s.kwWrapped_eq_wrapLoop.symm, hd⟩

/-- Settles O42, by the check of A after the inverse loop. -/
theorem kwUnwrapCommand : Obligations.KwUnwrapCommand := by
  refine ⟨by decide, fun s => ⟨kwChecks_of_not_keyLoaded, kwChecks_of_not_laid, fun hk h8 h16 hfit => ?_⟩⟩
  have hl : KwLaid s := ⟨h8, h16, hfit⟩
  by_cases ha : s.kwUnwrapped.1 = kwInitial
  · obtain ⟨t, ht, hd⟩ := exec_kwUnwrap_of_match hk hl ha
    exact ⟨t, _, _, ht, s.kwUnwrapped_eq_unwrapLoop.symm, fun _ => hd, fun hne => absurd ha hne⟩
  · obtain ⟨t, ht, hd⟩ := exec_kwUnwrap_of_mismatch hk hl ha
    exact ⟨t, _, _, ht, s.kwUnwrapped_eq_unwrapLoop.symm, fun he => absurd he ha, fun _ => hd⟩

/-- Settles O43: the unwrap loads what the wrap wrote, and undoes it step by step. -/
theorem unwrapUndoesWrap : Obligations.UnwrapUndoesWrap := by
  intro s hk h8 h16 hfit
  have hl : KwLaid s := ⟨h8, h16, hfit⟩
  obtain ⟨t, ht, hdt⟩ := exec_kwWrap_of_laid hk hl
  have hun := hdt.kwUnwrapped_eq
  have hdata := hdt.data_eq
  obtain ⟨-, -, -, heq⟩ := hdt
  have hkt : t.keyLoaded := by rw [heq]; exact hk
  have hlt : KwLaid t := by rw [heq]; exact hl
  obtain ⟨u, hu, hdu⟩ := exec_kwUnwrap_of_match hkt hlt (by rw [hun])
  obtain ⟨h0, hrest⟩ := hdu.slots_eq rfl
  obtain ⟨-, -, -, hequ⟩ := hdu
  have hbytes : s.kwBytes.length = 8 * (s.data.len.toNat / 8 - 1) := by
    rw [State.kwBytes, Memory.readBytes_length]
    omega
  rw [hdata] at h0 hrest
  rw [hun] at hrest
  exact ⟨t, u, ht, hu, by rw [hequ], h0, hrest.trans (bytesOfSlots_slotsOfBytes hbytes)⟩

end Sys2Proof.Machine

/-! SUPPORT. Doubling on integers, and CMAC as the indexed loop over blocks (42_cmac.md R150, R151, R153). -/

namespace Sys2Proof.Machine

/-- The bit that doubling carries out, on the integer. -/
theorem getLsbD_127_iff (x : Block) : x.getLsbD 127 = true ↔ x.toNat / 2 ^ 127 = 1 := by
  rw [BitVec.getLsbD, Nat.testBit_eq_decide_div_mod_eq, decide_eq_true_iff]
  have hx := x.isLt
  omega

theorem toNat_shiftLeft_one (x : Block) : (x <<< 1).toNat = 2 * x.toNat % 2 ^ 128 := by
  rw [BitVec.toNat_shiftLeft, Nat.shiftLeft_eq, pow_one, Nat.mul_comm]

theorem dbl_toNat (x : Block) : (dbl x).toNat =
    if x.toNat / 2 ^ 127 = 1 then 2 * x.toNat % 2 ^ 128 ^^^ 0x87 else 2 * x.toNat % 2 ^ 128 := by
  simp only [dbl, getLsbD_127_iff]
  split
  · rw [BitVec.toNat_xor, toNat_shiftLeft_one]
    rfl
  · exact toNat_shiftLeft_one x

theorem blockAt_drop (m : List Byte) (b : Nat) : blockAt (m.drop 16) b = blockAt m (b + 1) := by
  rw [blockAt, blockAt, List.drop_drop, Nat.mul_succ, Nat.add_comm]

/-- The recursion on the rest of the message is the loop over the index of the block. -/
theorem cmacChain_eq_foldl (key : Block) (n : Nat) (x : Block) (m : List Byte) :
    cmacChain key n x m = (List.range n).foldl (fun x i => aesE key (x ^^^ blockAt m i)) x := by
  induction n generalizing x m with
  | zero => rfl
  | succ n ih =>
    rw [cmacChain, ih, List.range_succ_eq_map, List.foldl_cons, List.foldl_map]
    simp only [blockAt_drop]
    rfl

/-- What remains of a message of whole blocks before its last one is that block. -/
theorem blockAt_last {m : List Byte} (hpos : 0 < m.length) (h16 : m.length % 16 = 0) :
    blockAt m (m.length / 16 - 1) = blockOfBytes (m.drop (16 * (m.length / 16 - 1))) := by
  rw [blockAt, List.take_of_length_le]
  rw [List.length_drop]
  omega

/-- X after the first n blocks, by the loop of R153. -/
def cmacLoop (key : Block) (m : List Byte) (n : Nat) : Block :=
  (List.range n).foldl (fun x i => aesE key (x ^^^ blockAt m i)) 0#128

theorem cmacChain_eq_cmacLoop (key : Block) (m : List Byte) (n : Nat) :
    cmacChain key n 0#128 m = cmacLoop key m n := cmacChain_eq_foldl key n 0#128 m

theorem cmac_of_full (key : Block) {m : List Byte} (hpos : 0 < m.length) (h16 : m.length % 16 = 0) :
    cmac key m = aesE key
      (cmacLoop key m (m.length / 16 - 1) ^^^ (blockAt m (m.length / 16 - 1) ^^^ cmacK1 key)) := by
  have hfull : cmacFull m = true := decide_eq_true ⟨hpos, h16⟩
  have hblocks : cmacBlocks m = m.length / 16 := if_pos hfull
  rw [cmac, hblocks, cmacChain_eq_cmacLoop, hfull, cmacLast, if_pos rfl, blockAt_last hpos h16]

theorem cmac_of_padded (key : Block) {m : List Byte} (h : ¬ (0 < m.length ∧ m.length % 16 = 0)) :
    cmac key m = aesE key (cmacLoop key m (m.length / 16) ^^^
      (blockOfBytes (m.drop (16 * (m.length / 16)) ++ 0x80#8 :: zeros (15 - m.length % 16)) ^^^ cmacK2 key)) := by
  have hfull : cmacFull m = false := decide_eq_false h
  have hblocks : cmacBlocks m = m.length / 16 + 1 := if_neg (Bool.eq_false_iff.1 hfull)
  have hrem : (m.drop (16 * (m.length / 16))).length = m.length % 16 := by rw [List.length_drop]; omega
  rw [cmac, hblocks, Nat.add_sub_cancel, cmacChain_eq_cmacLoop, hfull, cmacLast, if_neg Bool.false_ne_true, hrem,
    List.append_assoc, List.singleton_append]

end Sys2Proof.Machine

/-! SUPPORT. The command CMAC (42_cmac.md R152, R154). -/

namespace Sys2Proof.Machine

theorem decode_cmac {nseg : Nat} (h : nseg ≤ 4) :
    decode (BitVec.ofNat 32 (0x00000030 + 0x100 * nseg)) = .ok (.cmac nseg) :=
  decode_eq_ok_iff.2 ⟨decide_eq_true h, congrArg (BitVec.ofNat 32) (Nat.add_comm (0x100 * nseg) 0x30)⟩

theorem exec_cmac_of_tooMany {nseg : Nat} (s : State) (h : 4 < nseg) :
    exec (.cmac nseg) s = .next (completedWith s .illegalCommand) := if_pos h

theorem exec_cmac_of_not_fit {nseg : Nat} {s : State} (h4 : nseg ≤ 4) (hk : s.keyLoaded)
    (hfit : ¬ ∀ r ∈ s.segments.take nseg, s.fits r) :
    exec (.cmac nseg) s = .next (completedWith s .malformedLength) := by
  rw [exec, execCmac, if_neg (Nat.not_lt.2 h4), requireKey_of_loaded hk, requireRegions_of_not hfit,
    complete_eq_completedWith]

/-- The segments are joined in index order. -/
theorem exec_cmac_of_fit {nseg : Nat} {s : State} (h4 : nseg ≤ 4) (hk : s.keyLoaded)
    (hfit : ∀ r ∈ s.segments.take nseg, s.fits r) : exec (.cmac nseg) s =
      .next (completedWith (s.putTag (cmac s.key ((s.segments.take nseg).flatMap s.regionBytes))) .ok) := by
  rw [exec, execCmac, if_neg (Nat.not_lt.2 h4), requireKey_of_loaded hk, requireRegions_of_fit hfit,
    readRegions_of_fit hfit, ← List.flatMap_def, finish, complete_eq_completedWith]

end Sys2Proof.Machine

/-! The statements of 42_cmac.md. -/

namespace Sys2Proof.Machine

/-- Settles O44: the shift is doubling modulo 2^128, and bit 127 is the carry. -/
theorem doublingFollowsItsRule : Obligations.DoublingFollowsItsRule := ⟨dbl_toNat, by decide, by decide⟩

/-- Settles O45, by the two cases of the last block. -/
theorem cmacFollowsItsRule : Obligations.CmacFollowsItsRule := by
  intro key m k1 k2
  split
  next h =>
    obtain ⟨hpos, h16⟩ := h
    exact cmac_of_full key hpos h16
  next h => exact cmac_of_padded key h

/-- Settles O46, by the outcome of each check in turn. -/
theorem cmacCommand : Obligations.CmacCommand :=
  ⟨fun _ => decode_cmac, fun _ s => ⟨exec_cmac_of_tooMany s,
    fun h4 hk => exec_of_not_keyLoaded (decide_eq_true h4) rfl hk, exec_cmac_of_not_fit, exec_cmac_of_fit⟩⟩

end Sys2Proof.Machine

/-! SUPPORT. Counter mode byte by byte (43_ctr.md R160, R161). -/

namespace Sys2Proof

/-- Byte i of `BE_n(v)` is the digit of v at place n - 1 - i to the base 256. -/
theorem beBytes_getElem {n v i : Nat} (h : i < (beBytes n v).length) :
    (beBytes n v)[i] = BitVec.ofNat 8 (v / 256 ^ (n - 1 - i)) := by
  induction n generalizing i with
  | zero => cases h
  | succ n ih =>
    cases i with
    | zero => rfl
    | succ i =>
      simp only [beBytes, List.getElem_cons_succ, ih]
      rw [show n + 1 - 1 - (i + 1) = n - 1 - i by omega]

theorem bytesOfBlock_getElem {b : Block} {i : Nat} (h : i < (bytesOfBlock b).length) :
    (bytesOfBlock b)[i] = byteOfBlock b i := by
  apply BitVec.eq_of_toNat_eq
  simp only [bytesOfBlock, beBytes_getElem, BitVec.toNat_ofNat, byteOfBlock_toNat, Nat.pow_mul]

end Sys2Proof

namespace Sys2Proof.Machine

theorem incCounter_toNat (c : Block) : (incCounter c).toNat = (c.toNat + 1) % 2 ^ 128 := BitVec.toNat_add c 1#128

/-- q blocks on from the incremented counter is q + 1 blocks on from the counter. -/
theorem incCounter_add_ofNat (c : Block) (q : Nat) :
    incCounter c + BitVec.ofNat 128 q = c + BitVec.ofNat 128 (q + 1) := by
  rw [incCounter, BitVec.add_assoc, Nat.add_comm q, BitVec.ofNat_add]

/-- Byte i of the keystream from the initial counter block (43_ctr.md R161). -/
def ctrKeyByte (key c0 : Block) (i : Nat) : Byte :=
  byteOfBlock (aesE key (c0 + BitVec.ofNat 128 (i / 16))) (i % 16)

theorem ctrKeyByte_of_lt (key c0 : Block) {i : Nat} (h : i < 16) : ctrKeyByte key c0 i = byteOfBlock (aesE key c0) i := by
  rw [ctrKeyByte, Nat.div_eq_of_lt h, Nat.mod_eq_of_lt h, BitVec.add_zero]

theorem ctrKeyByte_add_sixteen (key c0 : Block) (i : Nat) :
    ctrKeyByte key c0 (i + 16) = ctrKeyByte key (incCounter c0) i := by
  rw [ctrKeyByte, ctrKeyByte, incCounter_add_ofNat, Nat.add_mod_right, Nat.add_div_right i (by decide)]

/-- One block of the keystream xored into at most sixteen bytes. -/
theorem xorBytes_keyBlock (key c : Block) {xs : List Byte} (h : xs.length ≤ 16) :
    xorBytes xs (bytesOfBlock (aesE key c)) = xs.mapIdx fun i x => x ^^^ ctrKeyByte key c i := by
  apply List.ext_getElem
  · simp [h]
  · intro i hi _
    rw [xorBytes_length] at hi
    simp [xorBytes, bytesOfBlock_getElem, ctrKeyByte_of_lt key c (show i < 16 by omega)]

/-- Block by block is byte by byte: past the first sixteen bytes the keystream is that of the incremented counter. -/
theorem ctrBlocks_eq_mapIdx (key c : Block) {n : Nat} {d : List Byte} (hn : d.length ≤ 16 * n) :
    ctrBlocks key n c d = d.mapIdx fun i x => x ^^^ ctrKeyByte key c i := by
  induction n generalizing c d with
  | zero => rw [List.eq_nil_of_length_eq_zero (Nat.le_zero.1 hn)]; rfl
  | succ n ih =>
    have hrest : (d.drop 16).length ≤ 16 * n := by rw [List.length_drop]; omega
    have hfirst : (d.take 16).length ≤ 16 := List.length_take_le 16 d
    rw [ctrBlocks, ih _ hrest, xorBytes_keyBlock key c hfirst]
    conv_rhs => rw [← List.take_append_drop 16 d, List.mapIdx_append]
    rcases Nat.le_total d.length 16 with hshort | hlong
    · simp only [List.drop_of_length_le hshort, List.mapIdx_nil]
    · simp only [List.length_take_of_le hlong, ctrKeyByte_add_sixteen]

/-- CTRX xors each byte with the keystream byte of its index (43_ctr.md R161). -/
theorem ctrx_eq_mapIdx (key c0 : Block) (d : List Byte) :
    ctrx key c0 d = d.mapIdx fun i x => x ^^^ ctrKeyByte key c0 i := ctrBlocks_eq_mapIdx key c0 (by omega)

theorem ctrx_getElem? (key c0 : Block) {d : List Byte} {i : Nat} (h : i < d.length) :
    (ctrx key c0 d)[i]? = some (d[i] ^^^ ctrKeyByte key c0 i) := by
  rw [ctrx_eq_mapIdx, List.getElem?_mapIdx, List.getElem?_eq_getElem h, Option.map_some]

/-- The same keystream twice cancels byte by byte. -/
theorem ctrx_ctrx (key c0 : Block) (d : List Byte) : ctrx key c0 (ctrx key c0 d) = d := by
  simp only [ctrx_eq_mapIdx, List.mapIdx_mapIdx, Function.comp_def, BitVec.xor_assoc, BitVec.xor_self, BitVec.xor_zero]
  exact List.mapIdx_eq_iff.2 fun i => by simp

end Sys2Proof.Machine

/-! SUPPORT. The command CTR (43_ctr.md R162). -/

namespace Sys2Proof.Machine

theorem exec_ctr_of_not_fit {s : State} (hk : s.keyLoaded) (hfit : ¬ s.fits s.data) :
    exec .ctr s = .next (completedWith s .malformedLength) := by
  rw [exec, execCtr, requireKey_of_loaded hk, requireRegions_of_not (mt List.forall_mem_singleton.1 hfit),
    complete_eq_completedWith]

theorem exec_ctr_of_fit {s : State} (hk : s.keyLoaded) (hfit : s.fits s.data) :
    ∃ t, exec .ctr s = .next t ∧ DataBecomes s t (ctrx s.key s.iv (s.regionBytes s.data)) .ok := by
  rw [exec, execCtr, requireKey_of_loaded hk, requireRegions_of_fit (List.forall_mem_singleton.2 hfit)]
  exact transformData_of_fit hfit (by rw [ctrx_length, s.regionBytes_length])

theorem DataBecomes.iv_eq {s t : State} {xs : List Byte} {c : ECode} (h : DataBecomes s t xs c) : t.iv = s.iv := by
  obtain ⟨-, -, -, heq⟩ := h
  rw [heq]

end Sys2Proof.Machine

/-! The statements of 43_ctr.md. -/

namespace Sys2Proof.Machine

/-- Settles O47: the block of a 16-byte string is its integer, and the increment is modulo 2^128. -/
theorem counterIncrement : Obligations.CounterIncrement := by
  refine ⟨fun c hc => ?_, by decide⟩
  rw [bytesOfBlock, incCounter_toNat, blockOfBytes_toNat hc]

/-- Settles O48, from CTRX byte by byte. -/
theorem ctrxFollowsItsRule : Obligations.CtrxFollowsItsRule := fun key c0 d =>
  ⟨ctrx_length key c0 d, fun _ => ctrx_getElem? key c0, ctrx_ctrx key c0 d⟩

/-- Settles O49, by the outcome of each check in turn. -/
theorem ctrCommand : Obligations.CtrCommand := by
  refine ⟨by decide, fun s => ⟨fun hk => exec_of_not_keyLoaded rfl rfl hk, exec_ctr_of_not_fit, fun hk hfit => ?_⟩⟩
  obtain ⟨t, hexec, hdata⟩ := exec_ctr_of_fit hk hfit
  exact ⟨t, hexec, hdata, hdata.iv_eq⟩

end Sys2Proof.Machine

/-! SUPPORT. The two EAX commands: prefix, checks, inputs and results (44_eax.md R170 to R173). -/

namespace Sys2Proof.Machine

/-- `P(0)` is sixteen zero bytes wherever the discriminator stands. -/
theorem eaxPrefix_zero (off : Config.EaxTweakOffset) : eaxPrefix off 0#8 = zeros 16 := by
  cases off <;> rfl

theorem eaxNonceMac_eq_cmac_zeros (off : Config.EaxTweakOffset) (key : Block) (nonce : List Byte) :
    eaxNonceMac off key nonce = cmac key (zeros 16 ++ nonce) := by
  rw [eaxNonceMac, eaxMac, eaxPrefix_zero]

theorem eaxCtr_eq_ctrx_zeros (off : Config.EaxTweakOffset) (key : Block) (nonce d : List Byte) :
    eaxCtr off key nonce d = ctrx key (cmac key (zeros 16 ++ nonce)) d := by
  rw [eaxCtr, eaxNonceMac_eq_cmac_zeros]

theorem eaxCtr_length (off : Config.EaxTweakOffset) (key : Block) (nonce d : List Byte) :
    (eaxCtr off key nonce d).length = d.length := ctrx_length ..

/-- The condition of R172 and R173 on the regions. -/
def EaxLaid (s : State) : Prop := s.fits s.data ∧ s.fits s.seg0 ∧ s.fits s.seg1

/-- The DATA region under the CTR step: the ciphertext of EAX_ENC, the plaintext of EAX_DEC. -/
def State.eaxData (s : State) : List Byte :=
  eaxCtr s.params.eaxTweakOffset s.key (s.regionBytes s.seg0) (s.regionBytes s.data)

/-- The tag of a ciphertext under the nonce and the header of the state. -/
def State.eaxTagOf (s : State) (c : List Byte) : Block :=
  eaxTag s.params.eaxTweakOffset s.key (s.regionBytes s.seg0) (s.regionBytes s.seg1) c

theorem State.eaxData_length (s : State) : s.eaxData.length = s.data.len.toNat :=
  (eaxCtr_length ..).trans (s.regionBytes_length _)

theorem eaxRegions_fit_iff (s : State) : (∀ r ∈ [s.data, s.seg0, s.seg1], s.fits r) ↔ EaxLaid s := by
  rw [List.forall_mem_cons, List.forall_mem_cons, List.forall_mem_singleton, EaxLaid]

theorem eaxChecks_of_not_keyLoaded {s : State} {k : Answer} (h : ¬ s.keyLoaded) :
    eaxChecks s k = .next (completedWith s .keyNotLoaded) := requireKey_of_not h

theorem eaxChecks_of_not_laid {s : State} {k : Answer} (hk : s.keyLoaded) (h : ¬ EaxLaid s) :
    eaxChecks s k = .next (completedWith s .malformedLength) := by
  rw [eaxChecks, requireKey_of_loaded hk, requireRegions_of_not (mt (eaxRegions_fit_iff s).1 h),
    complete_eq_completedWith]

theorem eaxChecks_of_laid {s : State} {k : Answer} (hk : s.keyLoaded) (h : EaxLaid s) : eaxChecks s k = k := by
  rw [eaxChecks, requireKey_of_loaded hk, requireRegions_of_fit ((eaxRegions_fit_iff s).2 h)]

theorem eaxInputs_of_laid {s : State} {k : List Byte → List Byte → List Byte → Answer} (h : EaxLaid s) :
    eaxInputs s k = k (s.regionBytes s.seg0) (s.regionBytes s.seg1) (s.regionBytes s.data) := by
  obtain ⟨hdata, hseg0, hseg1⟩ := h
  rw [eaxInputs, readRegion_of_fit hseg0, readRegion_of_fit hseg1, readRegion_of_fit hdata]

theorem EaxLaid.fits_data {s : State} (h : EaxLaid s) : s.fits s.data := by
  obtain ⟨hdata, -, -⟩ := h
  exact hdata

/-- TAG may as well be set before the write of BUF. -/
theorem memWrite_finish_putTag (s : State) (a : Nat) (xs : List Byte) (c : ECode) (g : Block) :
    (memWrite s a xs fun s' => finish c (s'.putTag g)) = memWrite (s.putTag g) a xs (finish c) := rfl

theorem exec_eaxEnc_of_laid {s : State} (hk : s.keyLoaded) (h : EaxLaid s) :
    ∃ t, exec .eaxEnc s = .next t ∧ DataBecomes (s.putTag (s.eaxTagOf s.eaxData)) t s.eaxData .ok := by
  have hexec : exec .eaxEnc s =
      memWrite (s.putTag (s.eaxTagOf s.eaxData)) s.data.addr.toNat s.eaxData (finish .ok) := by
    rw [exec, execEaxEnc, eaxChecks_of_laid hk h, eaxInputs_of_laid h, ← memWrite_finish_putTag]
    rfl
  rw [hexec]
  exact memWrite_data .ok h.fits_data s.eaxData_length

theorem exec_eaxDec_of_match {s : State} (hk : s.keyLoaded) (h : EaxLaid s)
    (htag : s.eaxTagOf (s.regionBytes s.data) = s.tag) :
    ∃ t, exec .eaxDec s = .next t ∧ DataBecomes s t s.eaxData .ok := by
  have hdec : eaxDecrypt s.params.eaxTweakOffset s.key (s.regionBytes s.seg0) (s.regionBytes s.seg1)
      (s.regionBytes s.data) s.tag = some s.eaxData := if_pos htag
  simp only [exec, execEaxDec, eaxChecks_of_laid hk h, eaxInputs_of_laid h, hdec]
  exact memWrite_data .ok h.fits_data s.eaxData_length

theorem exec_eaxDec_of_mismatch {s : State} (hk : s.keyLoaded) (h : EaxLaid s)
    (htag : s.eaxTagOf (s.regionBytes s.data) ≠ s.tag) :
    exec .eaxDec s = .next (completedWith s .tagMismatch) := by
  have hdec : eaxDecrypt s.params.eaxTweakOffset s.key (s.regionBytes s.seg0) (s.regionBytes s.seg1)
      (s.regionBytes s.data) s.tag = none := if_neg htag
  simp only [exec, execEaxDec, eaxChecks_of_laid hk h, eaxInputs_of_laid h, hdec]
  rw [finish, complete_eq_completedWith]

end Sys2Proof.Machine

/-! The statements of 44_eax.md R170, R172 and R173. -/

namespace Sys2Proof.Machine

/-- Settles O50: the MAC of the nonce, which is also the initial counter block, sees the parameter only through `P(0)`. -/
theorem eaxPrefixBlock : Obligations.EaxPrefixBlock := by
  refine ⟨fun t => ⟨rfl, rfl⟩, fun key nonce d => ⟨?_, ?_⟩⟩
  · rw [eaxNonceMac_eq_cmac_zeros, eaxNonceMac_eq_cmac_zeros]
  · rw [eaxCtr_eq_ctrx_zeros, eaxCtr_eq_ctrx_zeros]

/-- Settles O51: the inputs are read before the write, and TAG is set beside it. -/
theorem eaxEncCommand : Obligations.EaxEncCommand := by
  refine ⟨by decide, fun s => ⟨eaxChecks_of_not_keyLoaded, eaxChecks_of_not_laid, fun hk hdata hseg0 hseg1 => ?_⟩⟩
  obtain ⟨t, ht, hd⟩ := exec_eaxEnc_of_laid hk ⟨hdata, hseg0, hseg1⟩
  exact ⟨t, _, _, _, _, ht, rfl, rfl, rfl, rfl, hd⟩

/-- Settles O52, by the check of TAG before anything is written. -/
theorem eaxDecCommand : Obligations.EaxDecCommand := by
  refine ⟨by decide, fun s => ⟨eaxChecks_of_not_keyLoaded, eaxChecks_of_not_laid, fun hk hdata hseg0 hseg1 => ?_⟩⟩
  have hl : EaxLaid s := ⟨hdata, hseg0, hseg1⟩
  exact ⟨_, _, _, rfl, rfl, rfl, exec_eaxDec_of_match hk hl, exec_eaxDec_of_mismatch hk hl⟩

end Sys2Proof.Machine

/-! SUPPORT. CBC block by block (45_cbc.md R180, R181). -/

namespace Sys2Proof.Machine

theorem blockAt_eq_ite (xs : List Byte) (b : Nat) :
    blockAt xs b = if b = 0 then blockOfBytes (xs.take 16) else blockAt (xs.drop 16) (b - 1) := by
  cases b with
  | zero => rfl
  | succ b => exact (blockAt_drop xs b).symm

theorem take_bytesOfBlock_append (c : Block) (ys : List Byte) : (bytesOfBlock c ++ ys).take 16 = bytesOfBlock c :=
  List.take_left' (bytesOfBlock_length c)

theorem drop_bytesOfBlock_append (c : Block) (ys : List Byte) : (bytesOfBlock c ++ ys).drop 16 = ys :=
  List.drop_left' (bytesOfBlock_length c)

theorem blockAt_bytesOfBlock_append (c : Block) (ys : List Byte) (b : Nat) :
    blockAt (bytesOfBlock c ++ ys) b = if b = 0 then c else blockAt ys (b - 1) := by
  rw [blockAt_eq_ite, take_bytesOfBlock_append, drop_bytesOfBlock_append, blockOfBytes_bytesOfBlock]

/-- The chaining value that the recursion passes on is the output block before the rest. -/
theorem blockAt_cbcEncBlocks (key : Block) {n b : Nat} (ch : Block) (d : List Byte) (hb : b < n) :
    blockAt (cbcEncBlocks key n ch d) b =
      aesE key (blockAt d b ^^^ if b = 0 then ch else blockAt (cbcEncBlocks key n ch d) (b - 1)) := by
  induction n generalizing ch d b with
  | zero => cases hb
  | succ n ih =>
    cases b with
    | zero => exact blockAt_bytesOfBlock_append ..
    | succ b =>
      rw [cbcEncBlocks, blockAt_bytesOfBlock_append, if_neg b.succ_ne_zero, if_neg b.succ_ne_zero, Nat.add_sub_cancel,
        ih _ _ (Nat.lt_of_succ_lt_succ hb), blockAt_drop, blockAt_bytesOfBlock_append]

/-- The chaining value that the recursion passes on is the input block before the rest. -/
theorem blockAt_cbcDecBlocks (key : Block) {n b : Nat} (ch : Block) (d : List Byte) (hb : b < n) :
    blockAt (cbcDecBlocks key n ch d) b =
      aesDinv key (blockAt d b) ^^^ if b = 0 then ch else blockAt d (b - 1) := by
  induction n generalizing ch d b with
  | zero => cases hb
  | succ n ih =>
    cases b with
    | zero => exact blockAt_bytesOfBlock_append ..
    | succ b =>
      rw [cbcDecBlocks, blockAt_bytesOfBlock_append, if_neg b.succ_ne_zero, if_neg b.succ_ne_zero, Nat.add_sub_cancel,
        ih _ _ (Nat.lt_of_succ_lt_succ hb), blockAt_drop, ← blockAt_eq_ite]

/-- Both recursions carry the same chaining value, so it cancels in each block. -/
theorem cbcDecBlocks_cbcEncBlocks (key : Block) {n : Nat} (ch : Block) {d : List Byte} (hd : d.length = 16 * n) :
    cbcDecBlocks key n ch (cbcEncBlocks key n ch d) = d := by
  induction n generalizing ch d with
  | zero => exact (List.eq_nil_of_length_eq_zero hd).symm
  | succ n ih =>
    have hfirst : (d.take 16).length = 16 := List.length_take_of_le (by omega)
    have hrest : (d.drop 16).length = 16 * n := by rw [List.length_drop]; omega
    rw [cbcEncBlocks, cbcDecBlocks, take_bytesOfBlock_append, drop_bytesOfBlock_append, blockOfBytes_bytesOfBlock,
      aesDinv_aesE, BitVec.xor_assoc, BitVec.xor_self, BitVec.xor_zero, bytesOfBlock_blockOfBytes hfirst, ih _ hrest,
      List.take_append_drop]

theorem cbcEnc_length (key v : Block) {d : List Byte} (h16 : d.length % 16 = 0) :
    (cbcEnc key v d).length = d.length := by
  rw [cbcEnc, cbcEncBlocks_length]
  omega

theorem cbcDec_length (key v : Block) {c : List Byte} (h16 : c.length % 16 = 0) :
    (cbcDec key v c).length = c.length := by
  rw [cbcDec, cbcDecBlocks_length]
  omega

theorem cbcDec_cbcEnc (key v : Block) {d : List Byte} (h16 : d.length % 16 = 0) :
    cbcDec key v (cbcEnc key v d) = d := by
  rw [cbcDec, cbcEnc_length key v h16]
  exact cbcDecBlocks_cbcEncBlocks key v (by omega)

end Sys2Proof.Machine

/-! SUPPORT. The checks and the result that the two CBC commands share (45_cbc.md R182 to R184). -/

namespace Sys2Proof.Machine

/-- The conditions of R182 and R183 on length and range. -/
def CbcLaid (s : State) : Prop := s.data.len.toNat % 16 = 0 ∧ s.fits s.data

theorem cbcChecks_of_not_keyLoaded {s : State} {k : Answer} (h : ¬ s.keyLoaded) :
    cbcChecks s k = .next (completedWith s .keyNotLoaded) := requireKey_of_not h

theorem cbcChecks_of_not_laid {s : State} {k : Answer} (hk : s.keyLoaded) (h : ¬ CbcLaid s) :
    cbcChecks s k = .next (completedWith s .malformedLength) := by
  rw [cbcChecks, requireKey_of_loaded hk]
  by_cases hlen : s.data.len.toNat % 16 = 0
  · have hfit : ¬ ∀ r ∈ [s.data], s.fits r := fun hf => h ⟨hlen, List.forall_mem_singleton.1 hf⟩
    rw [requireForm_of_true (decide_eq_true hlen), requireRegions_of_not hfit, complete_eq_completedWith]
  · rw [requireForm_of_false (decide_eq_false hlen), complete_eq_completedWith]

theorem cbcChecks_of_laid {s : State} {k : Answer} (hk : s.keyLoaded) (h : CbcLaid s) : cbcChecks s k = k := by
  obtain ⟨hlen, hfit⟩ := h
  rw [cbcChecks, requireKey_of_loaded hk, requireForm_of_true (decide_eq_true hlen),
    requireRegions_of_fit (List.forall_mem_singleton.2 hfit)]

/-- A command with the checks of CBC whose function keeps the length of whole blocks replaces the DATA region and keeps IV. -/
theorem cbcChecks_transformData_of_laid {s : State} {f : List Byte → List Byte}
    (hf : ∀ x, x.length % 16 = 0 → (f x).length = x.length) (hk : s.keyLoaded) (h : CbcLaid s) :
    ∃ t, cbcChecks s (transformData s f) = .next t ∧ DataBecomes s t (f (s.regionBytes s.data)) .ok ∧ t.iv = s.iv := by
  rw [cbcChecks_of_laid hk h]
  obtain ⟨hlen, hfit⟩ := h
  have hbytes := s.regionBytes_length s.data
  obtain ⟨t, ht, hdata⟩ := transformData_of_fit hfit ((hf _ (hbytes ▸ hlen)).trans hbytes)
  exact ⟨t, ht, hdata, hdata.iv_eq⟩

end Sys2Proof.Machine

/-! The statements of 45_cbc.md. -/

namespace Sys2Proof.Machine

/-- Settles O54, by induction over the blocks. -/
theorem cbcEncFollowsItsRule : Obligations.CbcEncFollowsItsRule := fun key v d h16 =>
  ⟨cbcEnc_length key v h16, fun _ => blockAt_cbcEncBlocks key v d⟩

/-- Settles O55, by induction over the blocks; the chaining value is a ciphertext block on both sides. -/
theorem cbcDecFollowsItsRule : Obligations.CbcDecFollowsItsRule := fun key v c h16 =>
  ⟨cbcDec_length key v h16, fun _ => blockAt_cbcDecBlocks key v c, cbcDec_cbcEnc key v h16⟩

/-- Settles O56, the CBC checks with CBCenc. -/
theorem cbcEncCommand : Obligations.CbcEncCommand :=
  ⟨by decide, fun _ => ⟨cbcChecks_of_not_keyLoaded, cbcChecks_of_not_laid, fun hk hlen hfit =>
    cbcChecks_transformData_of_laid (fun _ => cbcEnc_length _ _) hk ⟨hlen, hfit⟩⟩⟩

/-- Settles O57, the CBC checks with CBCdec. -/
theorem cbcDecCommand : Obligations.CbcDecCommand :=
  ⟨by decide, fun _ => ⟨cbcChecks_of_not_keyLoaded, cbcChecks_of_not_laid, fun hk hlen hfit =>
    cbcChecks_transformData_of_laid (fun _ => cbcDec_length _ _) hk ⟨hlen, hfit⟩⟩⟩

end Sys2Proof.Machine

/-! SUPPORT. What NOP and ZEROIZE answer, and that no key is loaded after ZEROIZE (47_system.md R190, R191). -/

namespace Sys2Proof.Machine

theorem exec_nop (s : State) : exec .nop s = .next (s.complete .ok) := rfl

theorem exec_zeroize (s : State) : exec .zeroize s = .next (s.zeroized.complete .ok) := rfl

theorem not_keyLoaded_of_keyw_eq_zero {s : State} (h : s.keyw = 0#4) : ¬ s.keyLoaded := by
  rw [State.keyLoaded, h]
  decide

/-- Completion keeps KEYW, which ZEROIZE cleared. -/
theorem not_keyLoaded_complete_zeroized (s : State) (c : ECode) : ¬ (s.zeroized.complete c).keyLoaded :=
  not_keyLoaded_of_keyw_eq_zero rfl

theorem State.keyv_eq_false_of_not_keyLoaded {s : State} (h : ¬ s.keyLoaded) : s.keyv = false :=
  Bool.eq_false_iff.2 fun hv => h (s.keyv_iff.1 hv)

end Sys2Proof.Machine

/-! The statements of 47_system.md. -/

namespace Sys2Proof.Machine

/-- Settles O59: NOP is a completion and nothing before it. -/
theorem nopCommand : Obligations.NopCommand :=
  ⟨by decide, fun s => by rw [exec_nop, complete_eq_completedWith, completedWith]⟩

/-- Settles O60: ZEROIZE leaves BUF cleared and KEYW zero, so that the key check of every keyed command fails after it. -/
theorem zeroizeCommand : Obligations.ZeroizeCommand := by
  refine ⟨by decide, fun s => ⟨s.zeroized.complete .ok, exec_zeroize s, rfl, fun a _ => ?_, ?_, fun i hw hk => ?_⟩⟩
  · rw [State.complete_buf, State.zeroized_buf, Memory.read_clear]
  · exact State.keyv_eq_false_of_not_keyLoaded (not_keyLoaded_complete_zeroized s .ok)
  · rw [exec_of_not_keyLoaded hw hk (not_keyLoaded_complete_zeroized s .ok), complete_eq_completedWith]

end Sys2Proof.Machine

/-! SUPPORT. The code of a completion, in the order of 60_exceptions.md R208: the checks that every command makes before it
performs, what performing can report, and the engine's step. -/

namespace Sys2Proof.Machine

/-- The checks of every keyed command, in order: the key, the form of DATA_LEN, the regions (30_encoding.md R97). A command
without a condition on DATA_LEN makes a check that always passes. -/
theorem exec_eq_checks {i : Instr} (s : State) (hw : i.wellFormed = true) (hk : needsKey i = true) :
    ∃ form k, (form = true ↔ lengthForm i s.data.len.toNat) ∧
      exec i s = requireKey s (requireForm form s (requireRegions (usedRegions i s) s k)) := by
  cases i with
  | nop | zeroize => cases hk
  | ecbEnc | ecbDec => exact ⟨_, _, beq_iff_eq.trans BitVec.toNat_inj.symm, rfl⟩
  | kwWrap | kwUnwrap => exact ⟨_, _, kwForm_iff _, rfl⟩
  | cbcEnc | cbcDec => exact ⟨_, _, decide_eq_true_iff (p := s.data.len.toNat % 16 = 0), rfl⟩
  | cmac n => exact ⟨true, _, iff_of_true rfl trivial, if_neg (Nat.not_lt.2 (of_decide_eq_true hw))⟩
  | ctr | eaxEnc | eaxDec => exact ⟨true, _, iff_of_true rfl trivial, rfl⟩

/-- NOP and ZEROIZE have no condition. -/
theorem wellLaid_of_not_needsKey {i : Instr} (s : State) (h : ¬ needsKey i = true) : WellLaid i s := by
  cases i with
  | nop | zeroize => exact ⟨trivial, List.forall_mem_nil _⟩
  | _ => exact absurd rfl h

theorem exec_of_not_wellLaid {i : Instr} {s : State} (hw : i.wellFormed = true) (hs : needsKey i = true → s.keyLoaded)
    (h : ¬ WellLaid i s) : exec i s = .next (s.complete .malformedLength) := by
  have hk : needsKey i = true := not_not.1 (mt (wellLaid_of_not_needsKey s) h)
  obtain ⟨form, k, hform, hexec⟩ := exec_eq_checks s hw hk
  rw [hexec, requireKey_of_loaded (hs hk)]
  cases form with
  | false => exact requireForm_of_false rfl
  | true => exact requireRegions_of_not fun hfit => h ⟨hform.1 rfl, hfit⟩

/-- The codes of a command that has passed its checks (60_exceptions.md R201, R202, R208). -/
def PerformReports (i : Instr) (c : ECode) : Prop :=
  c = .ok ∨ (i = .kwUnwrap ∧ c = .integrityMismatch) ∨ (i = .eaxDec ∧ c = .tagMismatch)

theorem DataBecomes.ecode_eq {s t : State} {xs : List Byte} {c : ECode} (h : DataBecomes s t xs c) : t.ecode = c := by
  obtain ⟨-, -, -, heq⟩ := h
  rw [heq]

/-- A command that writes the DATA region and succeeds reports success. -/
theorem exists_performReports_of_data {i : Instr} {s : State} {a : Answer} {xs : List Byte}
    (h : ∃ t, a = .next t ∧ DataBecomes s t xs .ok) : ∃ t, a = .next t ∧ PerformReports i t.ecode := by
  obtain ⟨t, ht, hd⟩ := h
  exact ⟨t, ht, .inl hd.ecode_eq⟩

theorem exec_kwUnwrap_reports {s : State} (hs : s.keyLoaded) (h : KwLaid s) :
    ∃ t, exec .kwUnwrap s = .next t ∧ PerformReports .kwUnwrap t.ecode := by
  by_cases ha : s.kwUnwrapped.1 = kwInitial
  · exact exists_performReports_of_data (exec_kwUnwrap_of_match hs h ha)
  · obtain ⟨t, ht, hd⟩ := exec_kwUnwrap_of_mismatch hs h ha
    exact ⟨t, ht, .inr (.inl ⟨rfl, hd.ecode_eq⟩)⟩

theorem exec_eaxDec_reports {s : State} (hs : s.keyLoaded) (h : EaxLaid s) :
    ∃ t, exec .eaxDec s = .next t ∧ PerformReports .eaxDec t.ecode := by
  by_cases htag : s.eaxTagOf (s.regionBytes s.data) = s.tag
  · exact exists_performReports_of_data (exec_eaxDec_of_match hs h htag)
  · exact ⟨_, exec_eaxDec_of_mismatch hs h htag, .inr (.inr ⟨rfl, rfl⟩)⟩

theorem exec_cbc_reports {i : Instr} {s : State} {f : List Byte → List Byte}
    (hf : ∀ x, x.length % 16 = 0 → (f x).length = x.length) (hs : s.keyLoaded) (h : CbcLaid s) :
    ∃ t, cbcChecks s (transformData s f) = .next t ∧ PerformReports i t.ecode := by
  obtain ⟨t, ht, hd, -⟩ := cbcChecks_transformData_of_laid hf hs h
  exact ⟨t, ht, .inl hd.ecode_eq⟩

/-- A command that passes its checks performs, and reports a code of its own. -/
theorem exec_of_wellLaid {i : Instr} {s : State} (hw : i.wellFormed = true) (hs : needsKey i = true → s.keyLoaded)
    (h : WellLaid i s) : ∃ t, exec i s = .next t ∧ PerformReports i t.ecode := by
  obtain ⟨hform, hfit⟩ := h
  cases i with
  | nop => exact ⟨_, exec_nop s, .inl rfl⟩
  | zeroize => exact ⟨_, exec_zeroize s, .inl rfl⟩
  | ecbEnc | ecbDec => exact exists_performReports_of_data (ecbCommand_of_laid (hs rfl) ⟨hform, hfit _ (.head _)⟩)
  | kwWrap =>
    obtain ⟨h8, h16⟩ := hform
    exact exists_performReports_of_data (exec_kwWrap_of_laid (hs rfl) ⟨h8, h16, hfit _ (.head _)⟩)
  | kwUnwrap =>
    obtain ⟨h8, h16⟩ := hform
    exact exec_kwUnwrap_reports (hs rfl) ⟨h8, h16, hfit _ (.head _)⟩
  | cmac n => exact ⟨_, exec_cmac_of_fit (of_decide_eq_true hw) (hs rfl) hfit, .inl rfl⟩
  | ctr => exact exists_performReports_of_data (exec_ctr_of_fit (hs rfl) (hfit _ (.head _)))
  | eaxEnc => exact exists_performReports_of_data (exec_eaxEnc_of_laid (hs rfl) ((eaxRegions_fit_iff s).1 hfit))
  | eaxDec => exact exec_eaxDec_reports (hs rfl) ((eaxRegions_fit_iff s).1 hfit)
  | cbcEnc => exact exec_cbc_reports (fun _ => cbcEnc_length _ _) (hs rfl) ⟨hform, hfit _ (.head _)⟩
  | cbcDec => exact exec_cbc_reports (fun _ => cbcDec_length _ _) (hs rfl) ⟨hform, hfit _ (.head _)⟩

/-- The code of a decoded command, by the first condition that holds (60_exceptions.md R208). -/
def ReportsInOrder (i : Instr) (s : State) (c : ECode) : Prop :=
  ((needsKey i = true ∧ ¬ s.keyLoaded) → c = .keyNotLoaded) ∧
  (¬ (needsKey i = true ∧ ¬ s.keyLoaded) → ¬ WellLaid i s → c = .malformedLength) ∧
  (¬ (needsKey i = true ∧ ¬ s.keyLoaded) → WellLaid i s → PerformReports i c)

theorem exec_reportsInOrder {i : Instr} (s : State) (hw : i.wellFormed = true) :
    ∃ t, exec i s = .next t ∧ ReportsInOrder i s t.ecode := by
  by_cases hkey : needsKey i = true ∧ ¬ s.keyLoaded
  · exact ⟨_, exec_of_not_keyLoaded hw hkey.1 hkey.2, fun _ => rfl, absurd hkey, absurd hkey⟩
  · have hs : needsKey i = true → s.keyLoaded := fun hk => not_not.1 fun hn => hkey ⟨hk, hn⟩
    by_cases hl : WellLaid i s
    · obtain ⟨t, ht, hc⟩ := exec_of_wellLaid hw hs hl
      exact ⟨t, ht, fun h => absurd h hkey, fun _ hn => absurd hl hn, fun _ _ => hc⟩
    · exact ⟨_, exec_of_not_wellLaid hw hs hl, fun h => absurd h hkey, fun _ _ => rfl, fun _ h => absurd h hl⟩

theorem PerformReports.ne_malformedLength {i : Instr} {c : ECode} (h : PerformReports i c) :
    c ≠ .malformedLength := by
  rcases h with rfl | ⟨-, rfl⟩ | ⟨-, rfl⟩ <;> decide

/-- With its lengths and ranges in order no command reports MalformedLength, well formed or not. -/
theorem exec_ecode_ne_malformedLength {i : Instr} {s t : State} (h : exec i s = .next t) (hl : WellLaid i s) :
    t.ecode ≠ .malformedLength := by
  by_cases hw : i.wellFormed = true
  · obtain ⟨t', ht', hkey, -, hperform⟩ := exec_reportsInOrder s hw
    cases ht'.symm.trans h
    by_cases hnot : needsKey i = true ∧ ¬ s.keyLoaded
    · rw [hkey hnot]; decide
    · exact (hperform hnot hl).ne_malformedLength
  · cases i with
    | cmac n =>
      have hn : 4 < n := Nat.not_le.1 fun h4 => hw (decide_eq_true h4)
      cases (exec_cmac_of_tooMany s hn).symm.trans h
      show ECode.illegalCommand ≠ .malformedLength
      decide
    | _ => exact absurd rfl hw

theorem engineStep_of_illegal {s : State} {e : Reject} (hb : s.busy = true) (hd : decode s.cmd = .error e) :
    engineStep s = .next (s.complete .illegalCommand) := by
  rw [engineStep, fetch, hb, hd, if_pos rfl, finish]

theorem engineStep_of_legal {s : State} {i : Instr} (hb : s.busy = true) (hd : decode s.cmd = .ok i) :
    engineStep s = exec i s := by
  rw [engineStep, fetch, hb, hd, if_pos rfl]

/-- The engine's step of a busy CORE reports one code, the first of the order. -/
theorem engineStep_reportsInOrder {s : State} (hb : s.busy = true) : ∃ t, engineStep s = .next t ∧
    (∀ e, decode s.cmd = .error e → t.ecode = .illegalCommand) ∧
    (∀ i, decode s.cmd = .ok i → ReportsInOrder i s t.ecode) := by
  cases hd : decode s.cmd with
  | error e => exact ⟨_, engineStep_of_illegal hb hd, fun _ _ => rfl, fun _ h => by cases h⟩
  | ok i =>
    obtain ⟨hw, -⟩ := decode_eq_ok_iff.1 hd
    obtain ⟨t, ht, hc⟩ := exec_reportsInOrder s hw
    exact ⟨t, (engineStep_of_legal hb hd).trans ht, fun _ h => (by cases h), fun _ h => by cases h; exact hc⟩

/-- A queued turn of the engine is its step at the state without it. -/
theorem step_of_engine {s : State} {es : List Event} (h : s.events = .engine :: es) :
    step s = engineStep (s.popEvent es) := step_of_event h

/-- A failure but IntegrityMismatch touches STATUS alone. -/
theorem Completes.eq_complete {i : Instr} {s t : State} (h : Completes s i t) (hok : t.ecode ≠ .ok)
    (him : t.ecode ≠ .integrityMismatch) : t = s.complete t.ecode := by
  cases h with
  | failed => rfl
  | dataZeroed => exact absurd rfl him
  | _ => exact absurd rfl hok

/-- An IntegrityMismatch leaves the DATA region zero. -/
theorem Completes.data_zeroed {i : Instr} {s t : State} (h : Completes s i t) (him : t.ecode = .integrityMismatch) :
    DataBecomes s t (zeros s.data.len.toNat) .integrityMismatch := by
  cases h with
  | dataZeroed => exact .of_write (zeros_length _)
  | failed hc =>
    rw [State.complete_ecode] at him
    simp [him] at hc
  | _ => cases him

end Sys2Proof.Machine

/-! The statements of 60_exceptions.md on the completion codes. -/

namespace Sys2Proof.Machine

/-- Settles O29: the key check stands first in every keyed command. -/
theorem keyNotLoadedFailure : Obligations.KeyNotLoadedFailure := fun _ _ => exec_of_not_keyLoaded

/-- Settles O30: the checks of length and range fail with this code, and no later part of a command reports it. -/
theorem malformedLengthFailure : Obligations.MalformedLengthFailure :=
  ⟨fun _ _ => exec_of_not_wellLaid, fun _ _ _ h hc hl => exec_ecode_ne_malformedLength h hl hc⟩

/-- Settles O31, from the engine's step: a queued turn does not change what the command sees. -/
theorem codePriority : Obligations.CodePriority := by
  intro s es hb hev
  rcases hev with hev | hev
  · rw [step_of_empty hev]
    exact engineStep_reportsInOrder hb
  · rw [step_of_engine hev]
    exact engineStep_reportsInOrder (s := s.popEvent es) hb

/-- Settles O32, from the list of everything a command can leave. -/
theorem failuresArePrecise : Obligations.FailuresArePrecise := by
  intro i s t h
  have hc := exec_completes h
  obtain ⟨hbusy, hdone⟩ := hc.busy_done_eq
  exact ⟨hbusy, hdone, hc.eq_complete, hc.data_zeroed⟩

/-- Settles O28: the completion leaves CMD, and an idle CORE reads it back. -/
theorem illegalWordCompletes : Obligations.IllegalWordCompletes := by
  intro s es e hb hd
  refine ⟨fun hev => ?_, fun hev => ?_, hostRead_cmd rfl⟩
  · rw [step_of_empty hev, engineStep_of_illegal hb hd, complete_eq_completedWith]
  · rw [step_of_engine hev]
    exact engineStep_of_illegal (s := s.popEvent es) hb hd

end Sys2Proof.Machine

/-! SUPPORT. What each operation on the state keeps of the invariant. -/

namespace Sys2Proof.Machine

/-! ### A command -/

/-- A command that reports neither KeyNotLoaded nor MalformedLength has passed its checks of length and range. -/
theorem wellLaid_of_exec {i : Instr} {s t : State} (hw : i.wellFormed = true) (h : exec i s = .next t)
    (hkey : t.ecode ≠ .keyNotLoaded) (hlen : t.ecode ≠ .malformedLength) : WellLaid i s := by
  obtain ⟨t', ht', hnot, hbad, -⟩ := exec_reportsInOrder s hw
  cases ht'.symm.trans h
  by_contra hl
  exact hlen (hbad (fun hn => hkey (hnot hn)) hl)

/-- Every command that writes the DATA region checks its range. -/
theorem WellLaid.fits_data {i : Instr} {s : State} (h : WellLaid i s)
    (hi : i ∈ [.ecbEnc, .ecbDec, .kwWrap, .kwUnwrap, .ctr, .eaxDec, .cbcEnc, .cbcDec, .eaxEnc]) : s.fits s.data := by
  obtain ⟨-, hfit⟩ := h
  refine hfit s.data ?_
  cases i with
  | nop | zeroize | cmac n => simp at hi
  | _ => exact .head _

theorem Completes.params_eq {i : Instr} {s t : State} (h : Completes s i t) : t.params = s.params := by
  cases h <;> rfl

/-- A command writes BUF inside its range or not at all, so it keeps the canonical form. -/
theorem exec_keeps_buf_wf {i : Instr} {s t : State} (hw : i.wellFormed = true) (h : exec i s = .next t)
    (hs : s.buf.wf s.params.bufBytes) : t.buf.wf s.params.bufBytes := by
  have hwrite {xs : List Byte} (hfit : s.fits s.data) (hxs : xs.length = s.data.len.toNat) :
      (s.buf.write s.data.addr.toNat xs).wf s.params.bufBytes := Memory.write_wf hs (hxs ▸ hfit)
  cases exec_completes h with
  | nop | failed | tagWritten => exact hs
  | zeroized => exact Memory.clear_wf _ _
  | dataWritten hi hxs =>
    exact hwrite ((wellLaid_of_exec hw h nofun nofun).fits_data (List.mem_append_left [Instr.eaxEnc] hi)) hxs
  | dataZeroed => exact hwrite ((wellLaid_of_exec hw h nofun nofun).fits_data (by decide)) (zeros_length _)
  | dataAndTagWritten hxs => exact hwrite ((wellLaid_of_exec hw h nofun nofun).fits_data (by decide)) hxs

/-- A command that does not clear KEY and KEYW keeps both. -/
theorem Completes.keeps_unwrittenKey {i : Instr} {s t : State} (h : Completes s i t)
    (hs : ∀ w : Fin 4, s.keyw.getLsbD w = false → wordOfBlock s.key w = 0#32) :
    ∀ w : Fin 4, t.keyw.getLsbD w = false → wordOfBlock t.key w = 0#32 := by
  cases h with
  | zeroized => exact fun w _ => wordOfBlock_zero w
  | _ => exact hs

theorem Invariant.exec {i : Instr} {s t : State} (hs : Invariant s) (hw : i.wellFormed = true)
    (h : exec i s = .next t) : Invariant t := by
  have hc := exec_completes h
  obtain ⟨hbusy, -⟩ := hc.busy_done_eq
  refine ⟨?_, ?_, fun hb => ?_, hc.keeps_unwrittenKey hs.unwrittenKey⟩
  · rw [hc.params_eq]
    exact hs.legal
  · rw [hc.params_eq]
    exact exec_keeps_buf_wf hw h hs.bufForm
  · rw [hbusy] at hb
    cases hb

theorem Invariant.complete {s : State} (hs : Invariant s) (c : ECode) : Invariant (s.complete c) :=
  ⟨hs.legal, hs.bufForm, nofun, hs.unwrittenKey⟩

theorem Invariant.engineStep {s t : State} (hs : Invariant s) (h : engineStep s = .next t) : Invariant t := by
  rcases engineStep_cases s with ⟨-, he⟩ | ⟨-, -, he⟩ | ⟨-, i, hd, he⟩ <;> rw [he] at h
  · cases h
    exact hs
  · cases h
    exact hs.complete _
  · obtain ⟨hw, -⟩ := decode_eq_ok_iff.1 hd
    exact hs.exec hw h

/-! ### A reset -/

theorem Invariant.hardReset {s : State} (hs : Invariant s) : Invariant s.hardReset :=
  ⟨hs.legal, Memory.redraw_wf _ _, nofun, fun w _ => wordOfBlock_zero w⟩

theorem Invariant.softReset {s : State} (hs : Invariant s) : Invariant s.softReset := by
  refine ⟨hs.legal, ?_, nofun, fun w _ => wordOfBlock_zero w⟩
  rw [State.softReset_buf]
  split
  · exact Memory.redraw_wf _ _
  · exact hs.bufForm

/-! ### A host access -/

/-- A read can change HZ alone. -/
theorem hostRead_frame (s : State) (off : Nat) (n : Width) : ∃ hz, (hostRead s off n).2 = { s with hz := hz } := by
  rcases hostRead_cases s off n with ⟨-, h⟩ | ⟨x, -, -, h⟩ | ⟨x, -, -, h⟩ <;> rw [h] <;> exact ⟨_, rfl⟩

/-- A write of an operand register touches the operand registers alone. -/
theorem writeOperand_frame (s : State) (r : OperandReg) (v : Word) : ∃ d s0 s1 s2 s3,
    writeOperand s r v = { s with data := d, seg0 := s0, seg1 := s1, seg2 := s2, seg3 := s3 } := by
  cases r with
  | dataAddr | dataLen => exact ⟨_, _, _, _, _, rfl⟩
  | segAddr i | segLen i => fin_cases i <;> exact ⟨_, _, _, _, _, rfl⟩

/-- A write of KEY word w sets its KEYW bit, so only the other words must still be zero. -/
theorem Invariant.putKeyWord {s : State} (hs : Invariant s) (w : Fin 4) (v : Word) : Invariant (s.putKeyWord w v) := by
  refine ⟨hs.legal, hs.bufForm, hs.busyFresh, fun w' hw' => ?_⟩
  rw [putKeyWord_keyw_getLsbD, Bool.or_eq_false_iff, decide_eq_false_iff_not] at hw'
  obtain ⟨hunset, hne⟩ := hw'
  rw [State.putKeyWord_key, wordOfBlock_setWordOfBlock_of_ne _ _ hne]
  exact hs.unwrittenKey w' hunset

/-- An acknowledgement while BUSY = 1 finds DONE = 0 already. -/
theorem Invariant.writeStatus {s : State} (hs : Invariant s) (n : Width) (v : Word) :
    Invariant (writeTarget s n v .status) := by
  rw [writeTarget_status]
  refine ⟨hs.legal, hs.bufForm, fun hb => ?_, hs.unwrittenKey⟩
  obtain ⟨hdone, hcode⟩ := hs.busyFresh hb
  exact ⟨by simp [hdone], hcode⟩

theorem Invariant.writeTarget {s : State} (hs : Invariant s) {off : Nat} {n : Width} {x : Target} (v : Word)
    (hx : hostTarget s.params off n = some x) : Invariant (writeTarget s n v x) := by
  cases x with
  | id => exact hs
  | ctrl =>
    rw [writeTarget_ctrl]
    split
    · exact hs.softReset
    · exact ⟨hs.legal, hs.bufForm, hs.busyFresh, hs.unwrittenKey⟩
  | status => exact hs.writeStatus n v
  | cmd => exact ⟨hs.legal, hs.bufForm, fun _ => ⟨rfl, rfl⟩, hs.unwrittenKey⟩
  | operand r =>
    obtain ⟨d, s0, s1, s2, s3, h⟩ := writeOperand_frame s r v
    rw [Machine.writeTarget, h]
    exact ⟨hs.legal, hs.bufForm, hs.busyFresh, hs.unwrittenKey⟩
  | key w => exact hs.putKeyWord w v
  | iv w | tag w => exact ⟨hs.legal, hs.bufForm, hs.busyFresh, hs.unwrittenKey⟩
  | buf a =>
    have hin : a + (laneBytes n v).length ≤ s.params.bufBytes := by
      rcases hostTarget_some hx with ⟨-, -, hl⟩ | ⟨-, hlo, hhi, hxa⟩
      · obtain ⟨-, -, -, hbuf⟩ := registerMap_bounds hl
        exact absurd rfl (hbuf a)
      · cases hxa
        rw [laneBytes_length]
        omega
    exact ⟨hs.legal, Memory.write_wf hs.bufForm hin, hs.busyFresh, hs.unwrittenKey⟩

theorem Invariant.setHazard {s : State} (hs : Invariant s) : Invariant s.setHazard :=
  ⟨hs.legal, hs.bufForm, hs.busyFresh, hs.unwrittenKey⟩

theorem Invariant.hostRead {s : State} (hs : Invariant s) (off : Nat) (n : Width) : Invariant (hostRead s off n).2 := by
  obtain ⟨hz, h⟩ := hostRead_frame s off n
  rw [h]
  exact ⟨hs.legal, hs.bufForm, hs.busyFresh, hs.unwrittenKey⟩

theorem Invariant.hostWrite {s : State} (hs : Invariant s) (off : Nat) (n : Width) (v : Word) :
    Invariant (hostWrite s off n v).2 := by
  rcases hostWrite_cases s off n v with ⟨-, h⟩ | ⟨x, -, -, h⟩ | ⟨x, hx, -, h⟩ <;> rw [h]
  · exact hs
  · exact hs.setHazard
  · exact hs.writeTarget v hx

/-! ### A step -/

/-- Every step takes an event: with an empty queue it is the engine's turn. -/
theorem exists_step_eq_takeEvent (s : State) : ∃ e es, step s = takeEvent (s.popEvent es) e := by
  cases he : s.events with
  | nil =>
    have hpop : s.popEvent [] = s := by rw [State.popEvent, ← he]
    refine ⟨.engine, [], ?_⟩
    rw [step_of_empty he, hpop, takeEvent]
  | cons e es => exact ⟨e, es, step_of_event he⟩

theorem Invariant.respond {r : Response × State} (h : Invariant r.2) : Invariant (respond r) :=
  ⟨h.legal, h.bufForm, h.busyFresh, h.unwrittenKey⟩

theorem Invariant.popEvent {s : State} (hs : Invariant s) (es : List Event) : Invariant (s.popEvent es) :=
  ⟨hs.legal, hs.bufForm, hs.busyFresh, hs.unwrittenKey⟩

theorem Invariant.takeEvent {s t : State} {e : Event} (hs : Invariant s) (h : takeEvent s e = .next t) :
    Invariant t := by
  cases e with
  | read off n =>
    cases h
    exact (hs.hostRead off n).respond
  | write off n v =>
    cases h
    exact (hs.hostWrite off n v).respond
  | hardReset =>
    cases h
    exact hs.hardReset
  | engine => exact hs.engineStep h

end Sys2Proof.Machine

/-! The statements on the invariant (10_state.md R33, R41, R45, R50), and on decoding (30_encoding.md R91, R94). -/

namespace Sys2Proof.Machine

/-- Settles O5: a step takes one event, and every event keeps the invariant. -/
theorem stepKeepsInvariant : Obligations.StepKeepsInvariant := by
  intro s t hs h
  obtain ⟨e, es, he⟩ := exists_step_eq_takeEvent s
  exact (hs.popEvent es).takeEvent (he.symm.trans h)

/-- Settles O4: BUF has no cell after reset, and KEY is zero. -/
theorem resetMeetsInvariant : Obligations.ResetMeetsInvariant :=
  ⟨by decide, State.reset_buf_wf, nofun, fun w _ => wordOfBlock_zero w⟩

/-- Settles O22: `decode_eq_ok_iff` at the command's own word. -/
theorem decodeOfEncode : Obligations.DecodeOfEncode := fun _ hw => decode_eq_ok_iff.2 ⟨hw, rfl⟩

/-- Settles O23: the other direction of `decode_eq_ok_iff`. -/
theorem encodeOfDecode : Obligations.EncodeOfDecode := fun _ _ => decode_eq_ok_iff.1

end Sys2Proof.Machine

/-! SUPPORT. No step writes a parameter, and every step goes on (00_scope.md R9, 20_memory.md R70). -/

namespace Sys2Proof.Machine

theorem engineStep_params {s t : State} (h : engineStep s = .next t) : t.params = s.params := by
  rcases engineStep_cases s with ⟨-, he⟩ | ⟨-, -, he⟩ | ⟨-, i, -, he⟩ <;> rw [he] at h
  · cases h
    rfl
  · cases h
    rfl
  · exact (exec_completes h).params_eq

theorem takeEvent_params {s t : State} {e : Event} (h : takeEvent s e = .next t) : t.params = s.params := by
  cases e with
  | read off n =>
    cases h
    obtain ⟨-, -, hp⟩ := hostRead_keeps s off n
    exact hp
  | write off n v =>
    cases h
    obtain ⟨-, -, hp⟩ := hostWrite_keeps s off n v
    exact hp
  | hardReset =>
    cases h
    rfl
  | engine => exact engineStep_params h

theorem engineStep_of_idle {s : State} (hb : s.busy = false) : engineStep s = .next s := by
  rw [engineStep, hb]
  rfl

/-- An idle engine does nothing, and a busy one completes (60_exceptions.md R208). -/
theorem engineStep_goesOn (s : State) : GoesOn (engineStep s) := by
  cases hb : s.busy with
  | false => exact ⟨s, engineStep_of_idle hb⟩
  | true =>
    obtain ⟨t, ht, -⟩ := engineStep_reportsInOrder hb
    exact ⟨t, ht⟩

theorem takeEvent_goesOn (s : State) (e : Event) : GoesOn (takeEvent s e) := by
  cases e with
  | read off n | write off n v | hardReset => exact ⟨_, rfl⟩
  | engine => exact engineStep_goesOn s

end Sys2Proof.Machine

/-! SUPPORT. Host accesses of a busy CORE (20_memory.md R66, R78), and completion (10_state.md R20). -/

namespace Sys2Proof.Machine

theorem hostTarget_ctrl {p : Config.Params} {off : Nat} {n : Width} (h : hostTarget p off n = some .ctrl) :
    off = 0x004 ∧ n = .w4 := by
  rcases hostTarget_some h with ⟨-, hn, hl⟩ | ⟨-, -, -, hb⟩
  · have hall : ∀ c ∈ registerMap, c.2 = .ctrl → c.1 = 0x004 := by decide
    exact ⟨hall _ (mem_registerMap hl) rfl, hn⟩
  · cases hb

/-- While BUSY = 1 only CTRL and STATUS take a write, so that nothing but IE, DONE and HZ can change. -/
theorem hostWrite_frame_of_busy {s : State} {off : Nat} {n : Width} {v : Word} (hb : s.busy = true)
    (hr : ¬ IsSoftReset (.write off n v)) :
    ∃ ie done hz, (hostWrite s off n v).2 = { s with ie := ie, done := done, hz := hz } := by
  rcases hostWrite_cases s off n v with ⟨-, h⟩ | ⟨x, -, -, h⟩ | ⟨x, hx, hg, h⟩ <;> rw [h]
  · exact ⟨_, _, _, rfl⟩
  · exact ⟨_, _, _, rfl⟩
  · rw [gated, hb, Bool.true_and, Bool.not_eq_false'] at hg
    cases x with
    | id => exact ⟨_, _, _, rfl⟩
    | ctrl =>
      obtain ⟨rfl, rfl⟩ := hostTarget_ctrl hx
      have hclear : ¬ v.getLsbD 1 = true := fun hset => hr ⟨v, rfl, hset⟩
      rw [writeTarget_ctrl, if_neg hclear]
      exact ⟨_, _, _, rfl⟩
    | status =>
      rw [writeTarget_status]
      exact ⟨_, _, _, rfl⟩
    | cmd | operand r | key w | iv w | tag w | buf a => cases hg

/-- A host access that leaves a busy CORE busy: it changes nothing that the command sees. -/
theorem step_frame_of_busy {s : State} {e : Event} {es : List Event} (hb : s.busy = true) (he : s.events = e :: es)
    (heng : e ≠ .engine) (hhard : e ≠ .hardReset) (hsoft : ¬ IsSoftReset e) :
    ∃ t, step s = .next t ∧
      t = { s with ie := t.ie, done := t.done, hz := t.hz, events := es, responses := t.responses } := by
  rw [step_of_event he]
  cases e with
  | read off n =>
    obtain ⟨hz, h⟩ := hostRead_frame (s.popEvent es) off n
    refine ⟨_, rfl, ?_⟩
    rw [respond, h]
    rfl
  | write off n v =>
    obtain ⟨ie, done, hz, h⟩ := hostWrite_frame_of_busy (s := s.popEvent es) hb hsoft
    refine ⟨_, rfl, ?_⟩
    rw [respond, h]
    rfl
  | hardReset => exact absurd rfl hhard
  | engine => exact absurd rfl heng

theorem engineStep_completes {s : State} (hb : s.busy = true) :
    ∃ t, engineStep s = .next t ∧ t.busy = false ∧ t.done = true := by
  obtain ⟨t, ht⟩ := engineStep_goesOn s
  refine ⟨t, ht, ?_⟩
  rcases engineStep_cases s with ⟨hidle, -⟩ | ⟨-, -, he⟩ | ⟨-, i, -, he⟩
  · rw [hb] at hidle
    cases hidle
  · cases he.symm.trans ht
    exact ⟨rfl, rfl⟩
  · exact (exec_completes (he.symm.trans ht)).busy_done_eq

/-- A reset, of either kind, ends the command. -/
theorem step_of_reset {s : State} {e : Event} {es : List Event} (he : s.events = e :: es)
    (hr : e = .hardReset ∨ IsSoftReset e) : ∃ t, step s = .next t ∧ t.busy = false := by
  rw [step_of_event he]
  rcases hr with rfl | ⟨v, rfl, hv⟩
  · exact ⟨_, rfl, rfl⟩
  · refine ⟨_, rfl, ?_⟩
    rw [hostWrite_ctrl_of_set hv]
    rfl

theorem run_succ {s t : State} (h : step s = .next t) (k : Nat) :
    Host.Core.run core (k + 1) s = Host.Core.run core k t := by
  have hstep : core.step s = .next t := h
  simp only [Host.Core.run, hstep]

theorem run_one {s t : State} (h : step s = .next t) : Host.Core.run core 1 s = .next t := run_succ h 0

/-- Some number of steps, at most one more than the events queued, leaves the CORE idle, and with DONE = 1 unless a
reset is queued (10_state.md R20). -/
def ReachesIdle (s : State) (es : List Event) : Prop :=
  ∃ k t, k ≤ es.length + 1 ∧ Host.Core.run core k s = .next t ∧
    t.busy = false ∧ ((∀ e ∈ es, e ≠ .hardReset ∧ ¬ IsSoftReset e) → t.done = true)

/-- By induction on the queue: an access is taken off it and leaves the CORE busy; a reset ends the command; so does the
engine, at the latest when the queue is empty. -/
theorem reachesIdle_of_busy (es : List Event) {s : State} (hev : s.events = es) (hb : s.busy = true) :
    ReachesIdle s es := by
  induction es generalizing s with
  | nil =>
    obtain ⟨t, ht, hidle, hdone⟩ := engineStep_completes hb
    exact ⟨1, t, Nat.le_refl 1, run_one ((step_of_empty hev).trans ht), hidle, fun _ => hdone⟩
  | cons e es ih =>
    by_cases heng : e = .engine
    · subst heng
      obtain ⟨t, ht, hidle, hdone⟩ := engineStep_completes (s := s.popEvent es) hb
      exact ⟨1, t, Nat.le_add_left 1 _, run_one ((step_of_engine hev).trans ht), hidle, fun _ => hdone⟩
    by_cases hreset : e = .hardReset ∨ IsSoftReset e
    · obtain ⟨t, ht, hidle⟩ := step_of_reset hev hreset
      refine ⟨1, t, Nat.le_add_left 1 _, run_one ht, hidle, fun hnone => ?_⟩
      obtain ⟨hhard, hsoft⟩ := hnone e (.head _)
      exact absurd hreset (not_or.2 ⟨hhard, hsoft⟩)
    · obtain ⟨hhard, hsoft⟩ := not_or.1 hreset
      obtain ⟨t, ht, hframe⟩ := step_frame_of_busy hb hev heng hhard hsoft
      obtain ⟨k, u, hk, hrun, hidle, hdone⟩ := ih (s := t) (by rw [hframe]) (by rw [hframe]; exact hb)
      exact ⟨k + 1, u, Nat.succ_le_succ hk, (run_succ ht k).trans hrun, hidle,
        fun hnone => hdone fun e he => hnone e (.tail _ he)⟩

end Sys2Proof.Machine

/-! The statements of 00_scope.md R9, 10_state.md R20 and 20_memory.md R70 and R78. -/

namespace Sys2Proof.Machine

/-- Settles O1: no event writes a parameter. -/
theorem stepKeepsParameters : Obligations.StepKeepsParameters := by
  intro s t h
  obtain ⟨e, es, he⟩ := exists_step_eq_takeEvent s
  exact takeEvent_params (s := s.popEvent es) (he.symm.trans h)

/-- Settles O6: every event goes on. -/
theorem stepAlwaysGoesOn : Obligations.StepAlwaysGoesOn := by
  intro s
  obtain ⟨e, es, he⟩ := exists_step_eq_takeEvent s
  exact he ▸ takeEvent_goesOn _ e

/-- Settles O7, by induction on the queue. -/
theorem startedCommandCompletes : Obligations.StartedCommandCompletes := fun _ => reachesIdle_of_busy _ rfl

/-- Settles O18: the busy gate refuses every access but those to ID, CTRL and STATUS. -/
theorem busyKeepsWhatTheCommandSees : Obligations.BusyKeepsWhatTheCommandSees := fun _ _ _ => step_frame_of_busy

end Sys2Proof.Machine

/-! SUPPORT. What a command leaves unchanged, over all commands (30_encoding.md R97). -/

namespace Sys2Proof.Machine

theorem Completes.frame {i : Instr} {s t : State} (h : Completes s i t) :
    t = { s with ecode := t.ecode, busy := false, done := true, key := t.key, keyw := t.keyw, iv := t.iv, tag := t.tag,
                 buf := t.buf } := by
  cases h <;> rfl

theorem Completes.iv_eq {i : Instr} {s t : State} (h : Completes s i t) (hi : i ≠ .zeroize) : t.iv = s.iv := by
  cases h with
  | zeroized => exact absurd rfl hi
  | _ => rfl

theorem Completes.tag_eq {i : Instr} {s t : State} (h : Completes s i t) (hz : i ≠ .zeroize) (he : i ≠ .eaxEnc)
    (hc : ∀ n, i ≠ .cmac n) : t.tag = s.tag := by
  cases h with
  | zeroized => exact absurd rfl hz
  | dataAndTagWritten => exact absurd rfl he
  | tagWritten => exact absurd rfl (hc _)
  | nop | failed | dataWritten | dataZeroed => rfl

/-- A command outside the list of those that write the DATA region keeps BUF. -/
theorem Completes.buf_eq {i : Instr} {s t : State} (h : Completes s i t) (hi : i = .nop ∨ ∃ n, i = .cmac n) :
    t.buf = s.buf := by
  cases h with
  | nop | failed | tagWritten => rfl
  | dataWritten hw => rcases hi with rfl | ⟨n, rfl⟩ <;> simp at hw
  | zeroized | dataZeroed | dataAndTagWritten => simp at hi

theorem Completes.read_outside {i : Instr} {s t : State} (h : Completes s i t) (hi : i ≠ .zeroize) {a : Nat}
    (ha : a < s.data.addr.toNat ∨ s.data.addr.toNat + s.data.len.toNat ≤ a) : t.buf.read a = s.buf.read a := by
  have hwrite {xs : List Byte} (hxs : xs.length = s.data.len.toNat) :
      (s.buf.write s.data.addr.toNat xs).read a = s.buf.read a := Memory.read_write_outside (hxs ▸ ha)
  cases h with
  | zeroized => exact absurd rfl hi
  | nop | failed | tagWritten => rfl
  | dataWritten _ hxs | dataAndTagWritten hxs => exact hwrite hxs
  | dataZeroed => exact hwrite (zeros_length _)

end Sys2Proof.Machine

/-! SUPPORT. A command undone by another (40_ecb.md R131, 43_ctr.md R161, 44_eax.md R171, 45_cbc.md R181). -/

namespace Sys2Proof.Machine

/-- What the second of two commands finds: the result of the first, under the same key and the same operands. -/
theorem DataBecomes.operands_eq {s t : State} {xs : List Byte} {c : ECode} (h : DataBecomes s t xs c) :
    t.params = s.params ∧ t.keyw = s.keyw ∧ t.key = s.key ∧ t.seg0 = s.seg0 ∧ t.seg1 = s.seg1 ∧ t.tag = s.tag := by
  obtain ⟨-, -, -, heq⟩ := h
  rw [heq]
  exact ⟨rfl, rfl, rfl, rfl, rfl, rfl⟩

theorem DataBecomes.regionBytes_data_eq {s t : State} {xs : List Byte} {c : ECode} (h : DataBecomes s t xs c) :
    t.regionBytes t.data = xs := by
  rw [h.data_eq, h.regionBytes_eq]

theorem DataBecomes.keyLoaded {s t : State} {xs : List Byte} {c : ECode} (h : DataBecomes s t xs c)
    (hs : s.keyLoaded) : t.keyLoaded := by
  obtain ⟨-, hkeyw, -⟩ := h.operands_eq
  exact hkeyw.trans hs

theorem DataBecomes.fits {s t : State} {xs : List Byte} {c : ECode} (h : DataBecomes s t xs c) {r : Region}
    (hr : s.fits r) : t.fits r := by
  obtain ⟨hparams, -⟩ := h.operands_eq
  rw [State.fits, hparams]
  exact hr

/-- A region apart from DATA keeps its bytes. -/
theorem DataBecomes.regionBytes_of_apart {s t : State} {xs : List Byte} {c : ECode} (h : DataBecomes s t xs c)
    {r : Region} (hr : Apart r s.data) : t.regionBytes r = s.regionBytes r := by
  obtain ⟨-, -, hout, -⟩ := h
  exact Memory.readBytes_congr fun k hk => hout _ (by unfold Apart at hr; omega)

theorem DataBecomes.fits_data {s t : State} {xs : List Byte} {c : ECode} (h : DataBecomes s t xs c)
    (hs : s.fits s.data) : t.fits t.data := h.data_eq ▸ h.fits hs

/-- A command and another one after it: both go on, the second with success, and BUF is as it was. -/
def Restores (e d : Instr) (s : State) : Prop :=
  ∃ t u, exec e s = .next t ∧ exec d t = .next u ∧ u.ecode = .ok ∧ ∀ a, u.buf.read a = s.buf.read a

/-- It is enough that the second command writes back what stood in the DATA region before the first. -/
theorem DataBecomes.restores {e d : Instr} {s t u : State} {xs : List Byte} {c : ECode} (hdt : DataBecomes s t xs c)
    (ht : exec e s = .next t) (hu : exec d t = .next u) (hdu : DataBecomes t u (s.regionBytes s.data) .ok) :
    Restores e d s :=
  ⟨t, u, ht, hu, hdu.ecode_eq, hdt.read_restored hdu rfl⟩

theorem ecb_restores {s : State} (hk : s.keyLoaded) (h : EcbLaid s) : Restores .ecbEnc .ecbDec s := by
  obtain ⟨t, ht, hdt⟩ := ecbCommand_of_laid (f := aesE s.key) hk h
  obtain ⟨-, -, hkey, -⟩ := hdt.operands_eq
  obtain ⟨hlen, hfit⟩ := h
  have hbytes : (s.regionBytes s.data).length = 16 := (s.regionBytes_length _).trans hlen
  obtain ⟨u, hu, hdu⟩ :=
    ecbCommand_of_laid (f := aesDinv t.key) (hdt.keyLoaded hk) ⟨hdt.data_eq ▸ hlen, hdt.fits_data hfit⟩
  refine hdt.restores ht hu ?_
  rwa [hdt.regionBytes_data_eq, hkey, blockOfBytes_bytesOfBlock, aesDinv_aesE, bytesOfBlock_blockOfBytes hbytes] at hdu

theorem cbc_restores {s : State} (hk : s.keyLoaded) (h : CbcLaid s) : Restores .cbcEnc .cbcDec s := by
  obtain ⟨t, ht, hdt, hiv⟩ := cbcChecks_transformData_of_laid (fun _ => cbcEnc_length s.key s.iv) hk h
  obtain ⟨-, -, hkey, -⟩ := hdt.operands_eq
  obtain ⟨h16, hfit⟩ := h
  have hbytes : (s.regionBytes s.data).length % 16 = 0 := (s.regionBytes_length _).symm ▸ h16
  obtain ⟨u, hu, hdu, -⟩ := cbcChecks_transformData_of_laid (fun _ => cbcDec_length t.key t.iv) (hdt.keyLoaded hk)
    ⟨hdt.data_eq ▸ h16, hdt.fits_data hfit⟩
  refine hdt.restores ht hu ?_
  rwa [hdt.regionBytes_data_eq, hkey, hiv, cbcDec_cbcEnc _ _ hbytes] at hdu

theorem ctr_restores {s : State} (hk : s.keyLoaded) (hfit : s.fits s.data) : Restores .ctr .ctr s := by
  obtain ⟨t, ht, hdt⟩ := exec_ctr_of_fit hk hfit
  obtain ⟨-, -, hkey, -⟩ := hdt.operands_eq
  obtain ⟨u, hu, hdu⟩ := exec_ctr_of_fit (hdt.keyLoaded hk) (hdt.fits_data hfit)
  refine hdt.restores ht hu ?_
  rwa [hdt.regionBytes_data_eq, hkey, hdt.iv_eq, ctrx_ctrx] at hdu

/-- Nonce and header apart from DATA are the same after EAX_ENC, so that EAX_DEC computes the tag it finds, and the same
keystream. -/
theorem DataBecomes.eax_inputs_eq {s t : State} {g : Block} {c : ECode} (h : DataBecomes (s.putTag g) t s.eaxData c)
    (h0 : Apart s.seg0 s.data) (h1 : Apart s.seg1 s.data) :
    (∀ x, t.eaxTagOf x = s.eaxTagOf x) ∧ t.eaxData = s.regionBytes s.data ∧ t.tag = g := by
  obtain ⟨hparams, -, hkey, hseg0, hseg1, htag⟩ := h.operands_eq
  have hnonce : t.regionBytes t.seg0 = s.regionBytes s.seg0 := by
    rw [hseg0]
    exact h.regionBytes_of_apart h0
  have hheader : t.regionBytes t.seg1 = s.regionBytes s.seg1 := by
    rw [hseg1]
    exact h.regionBytes_of_apart h1
  refine ⟨fun x => ?_, ?_, htag⟩
  · rw [State.eaxTagOf, hparams, hkey, hnonce, hheader]
    rfl
  · rw [State.eaxData, h.regionBytes_data_eq, hparams, hkey, hnonce]
    exact ctrx_ctrx ..

theorem eax_restores {s : State} (hk : s.keyLoaded) (h : EaxLaid s) (h0 : Apart s.seg0 s.data)
    (h1 : Apart s.seg1 s.data) : ∃ t u, exec .eaxEnc s = .next t ∧ exec .eaxDec t = .next u ∧ u.ecode = .ok ∧
      u.tag = t.tag ∧ ∀ a, u.buf.read a = s.buf.read a := by
  obtain ⟨t, ht, hdt⟩ := exec_eaxEnc_of_laid hk h
  obtain ⟨htagOf, hplain, htag⟩ := hdt.eax_inputs_eq h0 h1
  obtain ⟨-, -, -, hseg0, hseg1, -⟩ := hdt.operands_eq
  obtain ⟨hdata, hs0, hs1⟩ := h
  have hlt : EaxLaid t := ⟨hdt.fits_data hdata, hseg0 ▸ hdt.fits hs0, hseg1 ▸ hdt.fits hs1⟩
  obtain ⟨u, hu, hdu⟩ := exec_eaxDec_of_match (hdt.keyLoaded hk) hlt (by rw [htagOf, hdt.regionBytes_data_eq, htag])
  obtain ⟨-, -, -, -, -, hutag⟩ := hdu.operands_eq
  exact ⟨t, u, ht, hu, hdu.ecode_eq, hutag, hdt.read_restored hdu hplain⟩

end Sys2Proof.Machine

/-! The statements on what a command leaves unchanged and on a command undone (30_encoding.md R97, 44_eax.md R171), and
the loops of 41_keywrap.md R141 and R142. -/

namespace Sys2Proof.Machine

/-- Settles O33, from the list of everything a command can leave. -/
theorem commandFrame : Obligations.CommandFrame := by
  intro i s t h
  have hc := exec_completes h
  refine ⟨hc.frame, fun hi => ?_, hc.tag_eq, hc.buf_eq, fun hi a => hc.read_outside hi⟩
  obtain ⟨hkey, hkeyw⟩ := hc.key_keyw_eq hi
  exact ⟨hkey, hkeyw, hc.iv_eq hi⟩

/-- Settles O40: a round is the loop over i, and the rounds are the loop over j. -/
theorem keyWrapFollowsIndexedLoops : Obligations.KeyWrapFollowsIndexedLoops := fun width key a _ =>
  ⟨kwWrap_eq_wrapLoop width key rfl, kwUnwrap_eq_unwrapLoop width key a rfl⟩

/-- Settles O53: EAX_DEC finds the tag that EAX_ENC left, and the same keystream cancels. -/
theorem eaxDecUndoesEaxEnc : Obligations.EaxDecUndoesEaxEnc := fun _ hk hdata hseg0 hseg1 =>
  eax_restores hk ⟨hdata, hseg0, hseg1⟩

/-- Settles O58, pair by pair. -/
theorem decryptUndoesEncrypt : Obligations.DecryptUndoesEncrypt := by
  intro s e d hpair hk ⟨hform, hfit⟩
  simp only [List.mem_cons, List.not_mem_nil, or_false, Prod.mk.injEq] at hpair
  rcases hpair with ⟨rfl, rfl⟩ | ⟨rfl, rfl⟩ | ⟨rfl, rfl⟩
  · exact ecb_restores hk ⟨hform, hfit _ (.head _)⟩
  · exact cbc_restores hk ⟨hform, hfit _ (.head _)⟩
  · exact ctr_restores hk (hfit _ (.head _))

end Sys2Proof.Machine

/-! SUPPORT. The BUF window (20_memory.md R61, R63). -/

namespace Sys2Proof.Machine

theorem four_dvd_pow2Above {n : Nat} (h : 4 ≤ n) : 4 ∣ Config.pow2Above n := by
  have hlog : 2 ≤ n.log2 := (Nat.le_log2 (by omega)).2 h
  have hpow {k : Nat} (hk : 2 ≤ k) : 4 ∣ 2 ^ k := Nat.pow_dvd_pow 2 hk
  unfold Config.pow2Above
  split
  next heq => exact heq ▸ hpow hlog
  next => exact hpow (Nat.le_succ_of_le hlog)

/-- With legal parameters the window starts at a multiple of every width. -/
theorem bytes_dvd_bufOff {p : Config.Params} (hp : p.Legal) (n : Width) : n.bytes ∣ p.bufOff := by
  obtain ⟨-, hsize, -, -, hoff⟩ := hp
  have hfour : 4 ∣ p.bufOff := (four_dvd_pow2Above (by omega)).trans (Nat.dvd_of_mod_eq_zero hoff)
  exact Nat.dvd_trans (by cases n <;> decide) hfour

/-- An aligned access inside the window reaches BUF. -/
theorem hostTarget_window {p : Config.Params} {a : Nat} {n : Width} (hp : p.Legal) (ha : a + n.bytes ≤ p.bufBytes)
    (hal : a % n.bytes = 0) : hostTarget p (p.bufOff + a) n = some (.buf a) := by
  have hmod : (p.bufOff + a) % n.bytes = 0 := by
    rw [Nat.add_mod, Nat.mod_eq_zero_of_dvd (bytes_dvd_bufOff hp n), hal, Nat.zero_add, Nat.zero_mod]
  obtain ⟨-, -, -, hoff, -⟩ := hp
  have hreg : ¬ p.bufOff + a < 0x070 := by omega
  have hwin : p.bufOff ≤ p.bufOff + a ∧ p.bufOff + a + n.bytes ≤ p.bufOff + p.bufBytes := by omega
  rw [hostTarget, if_neg (not_not.2 hmod), if_neg hreg, if_pos hwin, Nat.add_sub_cancel_left]

/-- The value of a read is the little-endian sum of its bytes. -/
theorem readWindow_toNat (m : Memory) (a : Nat) (n : Width) : (readWindow m a n).toNat =
    ((List.range n.bytes).map fun k => 2 ^ (8 * k) * (m.read (a + k)).toNat).sum := by
  cases n <;> simp [readWindow, leWord, joinBytes_toNat, Width.bytes, List.range_succ] <;> omega

theorem laneBytes_getElem {n : Width} {v : Word} {k : Nat} (h : k < (laneBytes n v).length) :
    (laneBytes n v)[k] = laneByte v k := by
  simp [laneBytes]

theorem read_write_laneBytes (m : Memory) (a : Nat) {n : Width} (v : Word) {k : Nat} (h : k < n.bytes) :
    (m.write a (laneBytes n v)).read (a + k) = laneByte v k := by
  have hk : k < (laneBytes n v).length := by rwa [laneBytes_length]
  rw [Memory.read_write_inside hk, laneBytes_getElem]

/-- The low bytes of a word make up the word modulo 2^(8n). -/
theorem readWindow_write_laneBytes (m : Memory) (a : Nat) (n : Width) (v : Word) :
    readWindow (m.write a (laneBytes n v)) a n = BitVec.ofNat 32 (v.toNat % 2 ^ (8 * n.bytes)) := by
  have hread {k : Nat} : k < n.bytes → (m.write a (laneBytes n v)).read (a + k) = laneByte v k :=
    read_write_laneBytes m a v
  have hv := v.isLt
  apply BitVec.eq_of_toNat_eq
  rw [readWindow_toNat, List.map_congr_left fun k hk => by rw [hread (List.mem_range.1 hk), laneByte_toNat]]
  cases n <;> simp [Width.bytes, List.range_succ] <;> omega

end Sys2Proof.Machine

/-! SUPPORT. Which accesses see KEY (10_state.md R41). -/

namespace Sys2Proof.Machine

theorem readTarget_with_key (s : State) (k : Block) (n : Width) (x : Target) :
    readTarget { s with key := k } n x = readTarget s n x := by
  cases x with
  | operand r =>
    cases r with
    | dataAddr | dataLen => rfl
    | segAddr i | segLen i => fin_cases i <;> rfl
  | _ => rfl

theorem hostRead_of_mapped {s : State} {off : Nat} {n : Width} {x : Target} (hx : hostTarget s.params off n = some x) :
    hostRead s off n = if gated s x then (.value 0#32, s.setHazard) else (.value (readTarget s n x), s) := by
  simp only [hostRead, hx]

theorem hostWrite_of_mapped {s : State} {off : Nat} {n : Width} {v : Word} {x : Target}
    (hx : hostTarget s.params off n = some x) :
    hostWrite s off n v = if gated s x then (.ok, s.setHazard) else (.ok, writeTarget s n v x) := by
  simp only [hostWrite, hx]

theorem hostRead_with_key (s : State) (k : Block) (off : Nat) (n : Width) :
    hostRead { s with key := k } off n = ((hostRead s off n).1, { (hostRead s off n).2 with key := k }) := by
  rcases hostRead_cases s off n with ⟨hx, h⟩ | ⟨x, hx, hg, h⟩ | ⟨x, hx, hg, h⟩ <;> rw [h]
  · exact hostRead_of_unmapped hx
  · exact (hostRead_of_mapped (s := { s with key := k }) hx).trans (if_pos hg)
  · rw [← readTarget_with_key s k]
    exact (hostRead_of_mapped (s := { s with key := k }) hx).trans (if_neg (Bool.eq_false_iff.1 hg))

/-- A write that does not see KEY: it keeps it, writes one word of it, or clears it. -/
theorem writeTarget_with_key (s : State) (k : Block) (n : Width) (v : Word) (x : Target) :
    ∃ k', writeTarget { s with key := k } n v x = { writeTarget s n v x with key := k' } := by
  cases x with
  | ctrl =>
    simp only [writeTarget_ctrl]
    split <;> exact ⟨_, rfl⟩
  | status =>
    simp only [writeTarget_status]
    exact ⟨_, rfl⟩
  | operand r =>
    cases r with
    | dataAddr | dataLen => exact ⟨_, rfl⟩
    | segAddr i | segLen i => fin_cases i <;> exact ⟨_, rfl⟩
  | id | cmd | key w | iv w | tag w | buf a => exact ⟨_, rfl⟩

theorem hostWrite_with_key (s : State) (k : Block) (off : Nat) (n : Width) (v : Word) :
    ∃ k', hostWrite { s with key := k } off n v =
      ((hostWrite s off n v).1, { (hostWrite s off n v).2 with key := k' }) := by
  rcases hostWrite_cases s off n v with ⟨hx, h⟩ | ⟨x, hx, hg, h⟩ | ⟨x, hx, hg, h⟩ <;> rw [h]
  · exact ⟨k, hostWrite_of_unmapped hx⟩
  · exact ⟨k, (hostWrite_of_mapped (s := { s with key := k }) hx).trans (if_pos hg)⟩
  · obtain ⟨k', hk'⟩ := writeTarget_with_key s k n v x
    refine ⟨k', (hostWrite_of_mapped (s := { s with key := k }) hx).trans ?_⟩
    rw [← hk']
    exact if_neg (Bool.eq_false_iff.1 hg)

/-- An event but the engine's turn is taken alike whatever KEY is. -/
theorem takeEvent_with_key (s : State) (k : Block) {e : Event} (he : e ≠ .engine) :
    ∃ t k', takeEvent s e = .next t ∧ takeEvent { s with key := k } e = .next { t with key := k' } := by
  cases e with
  | read off n =>
    refine ⟨_, k, rfl, ?_⟩
    rw [takeEvent, hostRead_with_key]
    rfl
  | write off n v =>
    obtain ⟨k', h⟩ := hostWrite_with_key s k off n v
    refine ⟨_, k', rfl, ?_⟩
    rw [takeEvent, h]
    rfl
  | hardReset => exact ⟨_, 0#128, rfl, rfl⟩
  | engine => exact absurd rfl he

end Sys2Proof.Machine

/-! SUPPORT. The step of each event (10_state.md R20, 30_encoding.md R102). -/

namespace Sys2Proof.Machine

/-- An access that keeps the queue and the record of responses is recorded in front of that record. -/
theorem respond_eq_of_keeps {r : Response × State} {es : List Event} {rs : List Response} (hes : r.2.events = es)
    (hrs : r.2.responses = rs) : respond r = { r.2 with events := es, responses := r.1 :: rs } := by
  subst hes hrs
  rfl

theorem decodeTableWord_eq_some_iff {nbits w : Nat} {i : Instr} :
    decodeTableWord nbits w = some i ↔ decode (tableWord nbits w) = .ok i := by
  unfold decodeTableWord
  cases decode (tableWord nbits w) <;> simp [Except.toOption]

end Sys2Proof.Machine

/-! The statements of 10_state.md R35, R36, R41, R45 and R50, 20_memory.md R61 and R63, 47_system.md R192, and on the
step (30_encoding.md R92, R102). -/

namespace Sys2Proof.Machine

/-- Settles O15: an aligned access of the window reaches BUF, and the bytes of a written value read back. -/
theorem bufWindow : Obligations.BufWindow := by
  intro s a n v hp hb ha hal
  have hx := hostTarget_window hp ha hal
  refine ⟨⟨_, hostRead_of_open hx (.inl hb), readWindow_toNat s.buf a n⟩, _, hostWrite_of_open hx (.inl hb), rfl,
    fun k => read_write_laneBytes s.buf a v, fun b hout => ?_, ?_⟩
  · exact Memory.read_write_outside (by rwa [laneBytes_length])
  · have hback := hostRead_of_open (s := s.putBytes a (laneBytes n v)) hx (.inl hb)
    rw [readTarget, State.putBytes_buf, readWindow_write_laneBytes] at hback
    exact hback

/-- Settles O19: no access sees KEY, and a write of it reaches KEY alone. -/
theorem keyIsNotReadable : Obligations.KeyIsNotReadable := by
  intro s k e es hev he
  obtain ⟨t, k', ht, hk⟩ := takeEvent_with_key (s.popEvent es) k he
  exact ⟨t, { t with key := k' }, (step_of_event hev).trans ht,
    (step_of_event (s := { s with key := k }) hev).trans hk, rfl⟩

/-- Settles O2: the reset of the state without the event, with BUF redrawn. -/
theorem resetLeavesSpecValues : Obligations.ResetLeavesSpecValues := by
  intro s es hev
  exact ⟨(s.popEvent es).hardReset, step_of_event hev, rfl, State.statusWord_hardReset _, rfl, rfl, fun _ => rfl, rfl⟩

/-- Settles O3, field by field. -/
theorem firstStateIsAResetState : Obligations.FirstStateIsAResetState :=
  ⟨⟨rfl, rfl, rfl, rfl, rfl, rfl, rfl⟩, ⟨rfl, rfl, rfl, rfl, rfl⟩, ⟨rfl, rfl, rfl⟩, by decide, rfl, fun _ => rfl, rfl⟩

/-- Settles O12: each register at its own row of the map. -/
theorem operandRegisters : Obligations.OperandRegisters := by
  intro s v hb
  have row {off : Nat} {r : OperandReg} (h : registerMap.lookup off = some (.operand r)) :
      hostWrite s off .w4 v = (.ok, writeOperand s r v) ∧ hostRead s off .w4 = (.value (readOperand s r), s) :=
    ⟨hostWrite_register h (.inl hb), hostRead_register h (.inl hb)⟩
  exact ⟨row (r := .dataAddr) rfl, row (r := .dataLen) rfl, row (r := .segAddr 0) rfl, row (r := .segLen 0) rfl,
    row (r := .segAddr 1) rfl, row (r := .segLen 1) rfl, row (r := .segAddr 2) rfl, row (r := .segLen 2) rfl,
    row (r := .segAddr 3) rfl, row (r := .segLen 3) rfl⟩

/-- Settles O20: the reset wins over the new IE, and BUF is redrawn when a command is abandoned. -/
theorem softReset : Obligations.SoftReset := by
  intro s v hv
  refine ⟨s.softReset, hostWrite_ctrl_of_set hv, rfl, fun hb => ?_, fun hb => ?_⟩ <;> rw [State.softReset_buf, hb]
  · rfl
  · exact ⟨fun _ => rfl, rfl⟩

/-- Settles O25, word by word. -/
theorem sampleWords : Obligations.SampleWords := by
  refine ⟨?_, ?_, ?_, ?_, ?_, ?_, ?_, ?_⟩ <;> decide

/-- Settles O26: an event is taken off the queue before it has its effect, and a host access touches neither the queue
nor the record of responses. -/
theorem stepRunsTheDecodedCommand : Obligations.StepRunsTheDecodedCommand := by
  intro s es
  refine ⟨fun i hb hd => ⟨fun hev => ?_, fun hev => ?_⟩,
    fun hb => ⟨engineStep_of_idle hb, fun hev => ?_, fun hev => ?_⟩,
    fun off n hev => ?_, fun off n v hev => ?_, step_of_event⟩
  · rw [step_of_empty hev, engineStep_of_legal hb hd]
  · rw [step_of_engine hev]
    exact engineStep_of_legal (s := s.popEvent es) hb hd
  · rw [step_of_empty hev, engineStep_of_idle hb]
  · rw [step_of_engine hev]
    exact engineStep_of_idle (s := s.popEvent es) hb
  · obtain ⟨hevents, hresp, -⟩ := hostRead_keeps (s.popEvent es) off n
    rw [step_of_event hev]
    exact congrArg _ (respond_eq_of_keeps hevents hresp)
  · obtain ⟨hevents, hresp, -⟩ := hostWrite_keeps (s.popEvent es) off n v
    rw [step_of_event hev]
    exact congrArg _ (respond_eq_of_keeps hevents hresp)

/-- Settles O27: the queued turn is taken off, and the accepted word is the one that decodes. -/
theorem placedWordRunsNext : Obligations.PlacedWordRunsNext := by
  intro s nbits w i hd
  exact (step_of_engine rfl).trans (engineStep_of_legal rfl (decodeTableWord_eq_some_iff.1 hd))

end Sys2Proof.Machine
